-- ==== Sys2Proof/Word.lean ====
section
/-! DEFINITION. The word sizes of the CORE and the plain data types of its words, bytes and MD5 accumulators. -/

namespace Sys2Proof

/-- One byte of a byte space (rule R39). -/
abbrev Byte := BitVec 8

/-- WordSize, one of 16, 32 and 64 bits (rules R9, R27). -/
inductive Width where
  | w16
  | w32
  | w64
deriving DecidableEq, Repr

/-- `w`, the width in bits. -/
def Width.bits : Width → Nat
  | .w16 => 16
  | .w32 => 32
  | .w64 => 64

/-- `u` = BytesPerWord(w) = w/8 (rule R9). -/
def Width.bytes : Width → Nat
  | .w16 => 2
  | .w32 => 4
  | .w64 => 8

/-- `bb` = 2·u, the block size in bytes: a block is two words (rule R9). -/
def Width.blockBytes (w : Width) : Nat := 2 * w.bytes

/-- A w-bit word (rule R13): an unsigned number below 2^w. -/
abbrev Word (w : Width) := BitVec w.bits

/-- The four 32-bit MD5 accumulators A, B, C, D, in that order (rule R36). -/
structure Acc where
  a : BitVec 32
  b : BitVec 32
  c : BitVec 32
  d : BitVec 32
deriving DecidableEq, Repr

end Sys2Proof
end

