-- ==== Sys2Proof/Syntax.lean ====
section
/-! DEFINITION. The 23 commands of the opcode map (rule R96) and their operands (rule R95). -/

namespace Sys2Proof

/-- The four word registers WR0 to WR3 (rule R31), which a register field names directly (rule R95). -/
inductive WReg where
  | wr0
  | wr1
  | wr2
  | wr3
deriving DecidableEq, Repr

/-- The register number 0 to 3 of a word register, as the command word and ERRINFO hold it (rules R90, R277). -/
def WReg.number : WReg → Nat
  | .wr0 => 0
  | .wr1 => 1
  | .wr2 => 2
  | .wr3 => 3

/-- The three byte spaces a command word can select (rules R60, R94). -/
inductive Buf where
  | keymem
  | inmem
  | outmem
deriving DecidableEq, Repr

/-- The space-select code `sp` (rules R60, R94). -/
def Buf.code : Buf → Nat
  | .keymem => 0
  | .inmem => 1
  | .outmem => 2

/-- The commands, one constructor per row of the opcode map (rule R96). `ra` and `rb` are word registers,
`sp` and `off` the buffer reference of format M, `n` the 16-bit immediate of format I. -/
inductive Instr where
  | sysNop
  | sysClear
  | wLd (ra : WReg) (sp : Buf) (off : BitVec 16)
  | wSt (ra : WReg) (sp : Buf) (off : BitVec 16)
  | wMov (ra rb : WReg)
  | wAdd (ra rb : WReg)
  | wSub (ra rb : WReg)
  | wXor (ra rb : WReg)
  | wAddb (ra : WReg) (n : BitVec 16)
  | wRol (ra : WReg) (n : BitVec 16)
  | wRor (ra : WReg) (n : BitVec 16)
  | wRolv (ra rb : WReg)
  | wRorv (ra rb : WReg)
  | lehGen
  | md5Init
  | md5Block (sp : Buf) (off : BitVec 16)
  | md5Digest
  | md5Hex
  | rc5Expand
  | rc5Encblk (sp : Buf) (off : BitVec 16)
  | rc5Decblk (sp : Buf) (off : BitVec 16)
  | rc5Encode
  | rc5Decode
deriving DecidableEq, Repr

end Sys2Proof
end

