-- ==== Sys2Proof/Config.lean ====
section
/-! DEFINITION. What an implementation fixes: the parameters and constant tables of rule R10 as plain data, with the
spec's default values (log 1), and the free value, which nothing in the model can evaluate (log 6). -/

namespace Sys2Proof

/-- The open parameters of rule R10, which a model takes as a configuration argument (92_eei_decisions.md section 7,
93_implementation_defined.md U16). HostBus is not among them: no rule reads it (U15; log 18). -/
structure Params where
  /-- `KEY_MAX`, the capacity of KEYMEM in bytes. -/
  keyMax : Nat
  /-- `BUF_MAX`, the capacity of INMEM in bytes. -/
  bufMax : Nat
  /-- `SEQ_MAX`, the capacity of SEQMEM in entries. -/
  seqMax : Nat
  /-- `LW`, the width of a Lehmer operand in bits; a register has at most 64 (rule R21). -/
  lw : Nat
  /-- `RC5_P[16]`, `RC5_P[32]` and `RC5_P[64]`, the start constants (rule R201, conflict C4). -/
  p16 : BitVec 16
  p32 : BitVec 32
  p64 : BitVec 64
  /-- `RC5_Q[16]`, `RC5_Q[32]` and `RC5_Q[64]`, the step constants (rule R202). -/
  q16 : BitVec 16
  q32 : BitVec 32
  q64 : BitVec 64
  /-- `IVGEN`: A, C, M and X0 of the IV generator (rule R231). -/
  ivA : Nat
  ivC : Nat
  ivM : Nat
  ivX0 : Nat
  /-- `MD5_IV`, the start accumulators (rule R171). -/
  md5Iv : Acc
  /-- `MD5_K`, the 64 round constants (rule R172). -/
  md5K : List (BitVec 32)
  /-- `MD5_SH`, the 64 rotate amounts (rule R173). -/
  md5Sh : List Nat
deriving DecidableEq, Repr

/-- `OUT_MAX` = BUF_MAX + 32, the capacity of OUTMEM in bytes (rule R10). -/
def Params.outMax (p : Params) : Nat := p.bufMax + 32

/-- `IV_VALUE_BYTES` = LW/8, the bytes each generated value gives the IV (rules R10, R231). -/
def Params.ivValueBytes (p : Params) : Nat := p.lw / 8

/-- `RC5_P[w]` (rule R201). -/
def Params.rc5P (p : Params) : (w : Width) → Word w
  | .w16 => p.p16
  | .w32 => p.p32
  | .w64 => p.p64

/-- `RC5_Q[w]` (rule R202). -/
def Params.rc5Q (p : Params) : (w : Width) → Word w
  | .w16 => p.q16
  | .w32 => p.q32
  | .w64 => p.q64

/-- The constraints of rule R10. OUT_MAX and IV_VALUE_BYTES meet theirs by definition; LW has at most the 64 bits of a
register (rule R21). -/
structure Params.Legal (p : Params) : Prop where
  keyMax : 1 ≤ p.keyMax ∧ p.keyMax ≤ 65535
  bufMax : 64 ≤ p.bufMax ∧ p.bufMax ≤ 65504
  seqMax : 1 ≤ p.seqMax ∧ p.seqMax < 2 ^ 32
  lw : 1 ≤ p.lw ∧ p.lw ≤ 64 ∧ p.lw % 8 = 0
  rc5Q : p.q16.toNat % 2 = 1 ∧ p.q32.toNat % 2 = 1 ∧ p.q64.toNat % 2 = 1
  ivM : 0 < p.ivM
  md5K : p.md5K.length = 64
  md5Sh : p.md5Sh.length = 64 ∧ ∀ k ∈ p.md5Sh, k ≤ 31

end Sys2Proof

namespace Sys2Proof.Config

/-- `R_MAX`, the largest legal CFG_ROUNDS, fixed by the 8-bit field and not open (rule R10). -/
def rMax : Nat := 255

/-- The number of entries of STAB, 2·(R_MAX + 1) (rule R37). -/
def stabMax : Nat := 2 * (rMax + 1)

/-- The default of `MD5_K` (rule R172). -/
def md5K : List (BitVec 32) :=
  [0xd76aa478#32, 0xe8c7b756#32, 0x242070db#32, 0xc1bdceee#32,
   0xf57c0faf#32, 0x4787c62a#32, 0xa8304613#32, 0xfd469501#32,
   0x698098d8#32, 0x8b44f7af#32, 0xffff5bb1#32, 0x895cd7be#32,
   0x6b901122#32, 0xfd987193#32, 0xa679438e#32, 0x49b40821#32,
   0xf61e2562#32, 0xc040b340#32, 0x265e5a51#32, 0xe9b6c7aa#32,
   0xd62f105d#32, 0x02441453#32, 0xd8a1e681#32, 0xe7d3fbc8#32,
   0x21e1cde6#32, 0xc33707d6#32, 0xf4d50d87#32, 0x455a14ed#32,
   0xa9e3e905#32, 0xfcefa3f8#32, 0x676f02d9#32, 0x8d2a4c8a#32,
   0xfffa3942#32, 0x8771f681#32, 0x6d9d6122#32, 0xfde5380c#32,
   0xa4beea44#32, 0x4bdecfa9#32, 0xf6bb4b60#32, 0xbebfbc70#32,
   0x289b7ec6#32, 0xeaa127fa#32, 0xd4ef3085#32, 0x04881d05#32,
   0xd9d4d039#32, 0xe6db99e5#32, 0x1fa27cf8#32, 0xc4ac5665#32,
   0xf4292244#32, 0x432aff97#32, 0xab9423a7#32, 0xfc93a039#32,
   0x655b59c3#32, 0x8f0ccc92#32, 0xffeff47d#32, 0x85845dd1#32,
   0x6fa87e4f#32, 0xfe2ce6e0#32, 0xa3014314#32, 0x4e0811a1#32,
   0xf7537e82#32, 0xbd3af235#32, 0x2ad7d2bb#32, 0xeb86d391#32]

/-- The default of `MD5_SH` (rule R173). -/
def md5Sh : List Nat :=
  [7, 12, 17, 22, 7, 12, 17, 22, 7, 12, 17, 22, 7, 12, 17, 22,
   5, 9, 14, 20, 5, 9, 14, 20, 5, 9, 14, 20, 5, 9, 14, 20,
   4, 11, 16, 23, 4, 11, 16, 23, 4, 11, 16, 23, 4, 11, 16, 23,
   6, 10, 15, 21, 6, 10, 15, 21, 6, 10, 15, 21, 6, 10, 15, 21]

/-- Every parameter at its default, the value the test vectors use (rule R10; log 1). For RC5_P[32] the document's
literal stands (rule R201, conflict C4). -/
def default : Params where
  keyMax := 256
  bufMax := 4096
  seqMax := 4096
  lw := 32
  p16 := 0xB7E1#16
  p32 := 0xB7E15162#32
  p64 := 0xB7E151628AED2A6B#64
  q16 := 0x9E37#16
  q32 := 0x9E3779B9#32
  q64 := 0x9E3779B97F4A7C15#64
  ivA := 32
  ivC := 2
  ivM := 1023
  ivX0 := 23
  md5Iv := ⟨0x67452301#32, 0xefcdab89#32, 0x98badcfe#32, 0x10325476#32⟩
  md5K := md5K
  md5Sh := md5Sh

/-- The places whose contents the spec leaves unspecified (93_implementation_defined.md U1 to U8). -/
inductive Open where
  /-- A byte of a byte space that holds no written byte (U4, U5, U6). -/
  | byte (sp : Buf) (off : Nat)
  /-- An entry of STAB outside a valid key table (U2). -/
  | stab (index : Nat)
  /-- An entry of SEQMEM at or above LEH_SEQLEN (U3). -/
  | seq (index : Nat)
  /-- The value of a word register whose tag is none (U1). -/
  | word (r : WReg)
  /-- What a host read other than STATUS and LEH_PROGRESS returns while BUSY = 1 (U7). -/
  | busyRead
  /-- How far the running command has come when the host reads STATUS or LEH_PROGRESS (U8; log 9). -/
  | busyPoint
deriving DecidableEq, Repr

/-- The free value: what an unspecified place holds at a value of the counter `State.draws`. It has no body, so every
claim holds whatever it is. DESIGN CHOICE (log 6). -/
opaque free : Nat → Open → BitVec 64

end Sys2Proof.Config
end

