-- ==== Sys2Proof/Machine/Alu.lean ====
section
/-! DEFINITION. Word arithmetic at every width (rule R13) and the little-endian byte order (rules R12, R65). -/

namespace Sys2Proof.Machine

variable {n : Nat}

/-- `add_w(a, b)` = (a + b) mod 2^w (rule R13). -/
def addW (a b : BitVec n) : BitVec n := a + b

/-- `sub_w(a, b)` = (a − b) mod 2^w (rule R13). -/
def subW (a b : BitVec n) : BitVec n := a - b

/-- `xor_w(a, b)`, bitwise (rule R13). -/
def xorW (a b : BitVec n) : BitVec n := a ^^^ b

/-- `rotl_w(a, k)`: rotate left by k mod w, any natural k (rule R13). -/
def rotlW (a : BitVec n) (k : Nat) : BitVec n := a.rotateLeft k

/-- `rotr_w(a, k)`: rotate right by k mod w, any natural k (rule R13). -/
def rotrW (a : BitVec n) (k : Nat) : BitVec n := a.rotateRight k

/-- `FromLE(bytes)`: the first byte is the least significant (rules R12, R65). -/
def fromLE : List Byte → Nat
  | [] => 0
  | b :: bs => b.toNat + 256 * fromLE bs

/-- `LE_k(v)`: the k bytes of v, least significant first (rules R12, R65). -/
def toLE : Nat → Nat → List Byte
  | 0, _ => []
  | k + 1, v => BitVec.ofNat 8 v :: toLE k (v / 256)

/-- The bytes of a w-bit word, `LE_u` (rule R65). -/
def wordBytes (w : Width) (v : Word w) : List Byte := toLE w.bytes v.toNat

/-- The w-bit word of its bytes, `FromLE` (rule R65). -/
def wordOfBytes (w : Width) (bs : List Byte) : Word w := BitVec.ofNat w.bits (fromLE bs)

end Sys2Proof.Machine
end

