-- ==== Sys2Proof/Machine/State.lean ====
section
/-! DEFINITION. The state of the CORE (rule R20) as plain data, the moves of its agents (rules R15, R61, R310), the
reasons a step can stop, and the state after reset (rules R311, R312). -/

namespace Sys2Proof.Machine

/-- A byte space: the bytes that have been written, by rising offset. An offset that is not listed holds no written
byte (rules R39, R74; log 6). -/
abbrev Memory := List Host.Cell

/-- A word register: a tag and a value, which has no meaning while the tag is `none` (rule R31; log 5). -/
inductive WordReg where
  /-- The tag `none`. -/
  | untagged
  /-- The tag 16, 32 or 64, and the value. -/
  | tagged (width : Width) (value : BitVec 64)
deriving DecidableEq, Repr

/-- The five indexed spaces besides REG (rule R60). -/
inductive Space where
  | bytes (sp : Buf)
  | stab
  | seqmem
deriving DecidableEq, Repr

/-- One move of one agent: the sequencer, the reset line, or the host with its four moves (rules R15, R61, R310). -/
inductive Move where
  /-- The sequencer runs the accepted command to its end (rule R262). -/
  | core
  /-- The platform asserts reset (rule R310). -/
  | reset
  /-- `HostWrite(n, v)`. -/
  | write (n : Nat) (v : BitVec 64)
  /-- `HostRead(n)`. -/
  | read (n : Nat)
  /-- `HostBufWrite(sp, a, b)`, of a byte space only. -/
  | bufWrite (sp : Buf) (a : Nat) (b : Byte)
  /-- `HostBufRead(sp, a)`. -/
  | bufRead (sp : Space) (a : Nat)
deriving DecidableEq, Repr

/-- The seven errors (rule R270). -/
inductive Err where
  | configuration
  | invalidPadding
  | bufferTooShort
  | illegalCommand
  | length
  | keyTableInvalid
  | widthMismatch
deriving DecidableEq, Repr

/-- What `raise Name(info)` names: the error and its ERRINFO (rule R280). -/
structure Trap where
  err : Err
  info : BitVec 32
deriving DecidableEq, Repr

/-- Everything the spec gives the machine (rule R20), and at the end the fields of the model's own. -/
structure State where
  /-- CMD, which keeps the accepted command word (rules R23, R261; log 4). -/
  cmd : BitVec 32
  /-- STATUS.BUSY (rule R24). -/
  busy : Bool
  /-- STATUS.DONE (rule R24). -/
  done : Bool
  /-- STATUS.ERR (rule R24). -/
  err : Bool
  /-- STATUS.KVALID (rules R24, R214). -/
  kvalid : Bool
  /-- STATUS.PVALID (rule R24). -/
  pvalid : Bool
  /-- STATUS.ERRCODE (rules R24, R270). -/
  errcode : BitVec 4
  /-- ERRINFO (rule R25). -/
  errinfo : BitVec 32
  /-- ERRCMD (rule R26). -/
  errcmd : BitVec 32
  /-- CFG_WORDSIZE (rule R27). -/
  cfgWordsize : BitVec 8
  /-- CFG_ROUNDS (rule R28). -/
  cfgRounds : BitVec 8
  /-- CFG_KLB (rule R29). -/
  cfgKlb : BitVec 16
  /-- KEYLEN (rule R30). -/
  keylen : BitVec 16
  /-- INLEN (rule R30). -/
  inlen : BitVec 32
  /-- OUTLEN (rule R30). -/
  outlen : BitVec 32
  /-- WR0 (rule R31). -/
  wr0 : WordReg
  /-- WR1 (rule R31). -/
  wr1 : WordReg
  /-- WR2 (rule R31). -/
  wr2 : WordReg
  /-- WR3 (rule R31). -/
  wr3 : WordReg
  /-- LEH_A, an LW-bit number (rule R32; log 14). -/
  lehA : BitVec 64
  /-- LEH_C, an LW-bit number (rule R32; log 14). -/
  lehC : BitVec 64
  /-- LEH_M, an LW-bit number (rule R32; log 14). -/
  lehM : BitVec 64
  /-- LEH_X0, an LW-bit number (rule R32; log 14). -/
  lehX0 : BitVec 64
  /-- LEH_COUNT (rule R33). -/
  lehCount : BitVec 32
  /-- LEH_SEQLEN (rule R34). -/
  lehSeqlen : BitVec 32
  /-- LEH_PERIOD (rule R34). -/
  lehPeriod : BitVec 32
  /-- LEH_FIRSTOCC (rule R34). -/
  lehFirstocc : BitVec 32
  /-- LEH_PROGRESS (rule R35). -/
  lehProgress : BitVec 7
  /-- MD5_ACC0 to MD5_ACC3 (rule R36). -/
  md5Acc : Acc
  /-- KEYMEM (rule R39). -/
  keymem : Memory
  /-- INMEM (rule R39). -/
  inmem : Memory
  /-- OUTMEM (rule R39). -/
  outmem : Memory
  /-- STAB: the entries from 0 on that the last table builder wrote (rule R37; log 14). -/
  stab : List (BitVec 64)
  /-- SEQMEM: the entries from 0 on that the last LEH_GEN wrote, each an LW-bit number (rule R38; log 14). -/
  seqmem : List (BitVec 64)
  /-- The model's own: the moves still to come, the first one first (log 2). -/
  schedule : List Move
  /-- The model's own: what the last host read returned (log 7). -/
  hostData : BitVec 64
  /-- The model's own: the counter the free value is applied to (log 8). -/
  draws : Nat
  /-- The model's own: how far the running command is known to have come, since a host read has shown it (log 9). -/
  seen : Nat
  /-- The parameters of rule R10 that this machine was built with. They are no state (rule R42): no move changes them;
  they stand here because exec and step take no other argument (log 1). -/
  params : Params
deriving DecidableEq, Repr

/-- Why a step stops with a fault. -/
inductive Fault where
  /-- Raised by a host buffer move whose index is at or beyond the size of its space: rule R61 gives such a move no
  meaning. Safe: the model stops where the spec says nothing (log 12). -/
  | outsideSpace (sp : Space) (index : Nat)
deriving DecidableEq, Repr

/-- Why a step has no meaning. -/
inductive Refusal where
  /-- Raised by exec for a command that has no meaning in this model, by its mnemonic; no command is left so. Safe. -/
  | notModelled (mnemonic : String)
deriving DecidableEq, Repr

/-- The state after reset: every register 0, every tag none, no byte or entry of a memory written (rules R311, R312,
R44); the model's own fields empty or 0 (DESIGN CHOICE, log 2, log 7, log 8, log 9); the parameters at the
defaults (log 1). -/
def State.reset : State where
  cmd := 0
  busy := false
  done := false
  err := false
  kvalid := false
  pvalid := false
  errcode := 0
  errinfo := 0
  errcmd := 0
  cfgWordsize := 0
  cfgRounds := 0
  cfgKlb := 0
  keylen := 0
  inlen := 0
  outlen := 0
  wr0 := .untagged
  wr1 := .untagged
  wr2 := .untagged
  wr3 := .untagged
  lehA := 0
  lehC := 0
  lehM := 0
  lehX0 := 0
  lehCount := 0
  lehSeqlen := 0
  lehPeriod := 0
  lehFirstocc := 0
  lehProgress := 0
  md5Acc := ⟨0, 0, 0, 0⟩
  keymem := []
  inmem := []
  outmem := []
  stab := []
  seqmem := []
  schedule := []
  hostData := 0
  draws := 0
  seen := 0
  params := Config.default

end Sys2Proof.Machine
end

