-- ==== Sys2Proof/Machine/Flags.lean ====
section
/-! DEFINITION. The flags: the STATUS register as it is read (rule R24), the error codes (rule R270), and what sets and
clears each flag (rule R40). No command computes a carry, zero, sign or overflow flag (rule R40). -/

namespace Sys2Proof.Machine

/-- The code of an error in STATUS.ERRCODE (rule R270). -/
def Err.code : Err → BitVec 4
  | .configuration => 1
  | .invalidPadding => 2
  | .bufferTooShort => 3
  | .illegalCommand => 4
  | .length => 5
  | .keyTableInvalid => 6
  | .widthMismatch => 7

/-- One bit as a number. -/
def bit (b : Bool) : BitVec 64 := if b then 1 else 0

/-- STATUS put together from its fields; the reserved bits read 0 (rule R24). -/
def statusWord (busy done err kvalid pvalid : Bool) (errcode : BitVec 4) : BitVec 64 :=
  bit busy ||| bit done <<< 1 ||| bit err <<< 2 ||| bit kvalid <<< 3 ||| bit pvalid <<< 4
    ||| errcode.setWidth 64 <<< 8

/-- STATUS as a register (rule R24). -/
def State.status (s : State) : BitVec 64 :=
  statusWord s.busy s.done s.err s.kvalid s.pvalid s.errcode

/-- Acceptance of the command word c: BUSY is set and DONE is cleared (rules R40, R261). CMD keeps the word (log 4)
and no host read has shown the run yet (log 9). -/
def State.accept (c : BitVec 32) (s : State) : State :=
  { s with cmd := c, busy := true, done := false, seen := 0 }

/-- Successful completion: BUSY is cleared and DONE is set (rules R40, R262). -/
def State.complete (s : State) : State := { s with busy := false, done := true }

/-- KVALID is cleared by a host write to CFG_WORDSIZE or CFG_ROUNDS, whatever the value (rules R40, R321). What STAB
then reads as is unspecified (U2): a new draw. -/
def State.clearKvalid (s : State) : State := { s with kvalid := false, draws := s.draws + 1 }

/-- A new key table: its entries zero extended to 64 bits, KVALID set; the entries from t on become unspecified (rules
R37, R209). -/
def State.setTable (w : Width) (table : List (Word w)) (s : State) : State :=
  { s with stab := table.map (·.setWidth 64), kvalid := true, draws := s.draws + 1 }

end Sys2Proof.Machine
end

