-- ==== Sys2Proof/Machine/Ops.lean ====
section
/-! DEFINITION. The named operations over memory, registers and errors that the meanings share. -/

namespace Sys2Proof.Machine

/-- The byte written at an offset; none where nothing has been written (rule R74). -/
def memGet : Memory → Nat → Option Byte
  | [], _ => none
  | (k, b) :: m, a => if a = k then some b else memGet m a

/-- Write one byte, keeping the offsets strictly rising. -/
def memSet : Memory → Nat → Byte → Memory
  | [], a, b => [(a, b)]
  | (k, x) :: m, a, b =>
    if a < k then (a, b) :: (k, x) :: m
    else if a = k then (a, b) :: m
    else (k, x) :: memSet m a b

/-- Write bytes at rising offsets from a on (rules R12, R65). -/
def memSetBytes : Memory → Nat → List Byte → Memory
  | m, _, [] => m
  | m, a, b :: bs => memSetBytes (memSet m a b) (a + 1) bs

/-- The space that holds exactly the given bytes, from offset a on. -/
def memOfBytes : Nat → List Byte → Memory
  | _, [] => []
  | a, b :: bs => (a, b) :: memOfBytes (a + 1) bs

/-- The canonical form: the offsets rise strictly. -/
abbrev memWf (m : Memory) : Prop := m.Pairwise (fun x y => x.1 < y.1)

/-- The byte space a space select names. -/
def State.buf (s : State) : Buf → Memory
  | .keymem => s.keymem
  | .inmem => s.inmem
  | .outmem => s.outmem

/-- The state with another content of one byte space. -/
def State.setBuf (sp : Buf) (m : Memory) (s : State) : State :=
  match sp with
  | .keymem => { s with keymem := m }
  | .inmem => { s with inmem := m }
  | .outmem => { s with outmem := m }

/-- `blen(sp)`, the value of the space's length register (rule R62). -/
def State.blen (s : State) : Buf → Nat
  | .keymem => s.keylen.toNat
  | .inmem => s.inlen.toNat
  | .outmem => s.outlen.toNat

/-- `cap(sp)` (rule R62). -/
def bufCap (p : Params) : Buf → Nat
  | .keymem => p.keyMax
  | .inmem => p.bufMax
  | .outmem => p.outMax

/-- The byte at an offset of a byte space; a byte nothing has written is the free value (rule R74; log 6). -/
def State.byteAt (s : State) (sp : Buf) (a : Nat) : Byte :=
  match memGet (s.buf sp) a with
  | some b => b
  | none => (Config.free s.draws (.byte sp a)).setWidth 8

/-- `Mem[sp][a..a+k)`. -/
def State.bytesAt (s : State) (sp : Buf) (a k : Nat) : List Byte :=
  (List.range k).map fun j => s.byteAt sp (a + j)

/-- Write bytes into a byte space from offset a on; no length register changes (rule R61, R124). -/
def State.writeBytes (sp : Buf) (a : Nat) (bs : List Byte) (s : State) : State :=
  s.setBuf sp (memSetBytes (s.buf sp) a bs)

/-- The output of a whole-buffer command: OUTMEM holds the bytes from offset 0 on, OUTLEN their number, and the bytes
at or beyond the new OUTLEN are unspecified (rule R64, U5). -/
def State.setOutput (bs : List Byte) (s : State) : State :=
  { s with outmem := memOfBytes 0 bs, outlen := BitVec.ofNat 32 bs.length, draws := s.draws + 1 }

/-- The word register a register field names. -/
def State.wr (s : State) : WReg → WordReg
  | .wr0 => s.wr0
  | .wr1 => s.wr1
  | .wr2 => s.wr2
  | .wr3 => s.wr3

/-- Replace one word register. -/
def State.setWr (r : WReg) (v : WordReg) (s : State) : State :=
  match r with
  | .wr0 => { s with wr0 := v }
  | .wr1 => { s with wr1 := v }
  | .wr2 => { s with wr2 := v }
  | .wr3 => { s with wr3 := v }

/-- `WR[i] <- v`: the value and the tag w (rule R122). -/
def State.setWord (w : Width) (r : WReg) (v : Word w) (s : State) : State :=
  s.setWr r (.tagged w (v.setWidth 64))

/-- An entry of STAB as the block commands read it. An entry that the last builder did not write is the free value
(rule R37; log 6); it lies outside the table, so no command reads one while KVALID means what rule R214 says. -/
def State.stabEntry (s : State) (i : Nat) : BitVec 64 :=
  match s.stab[i]? with
  | some v => v
  | none => Config.free s.draws (.stab i)

/-- TAKING AN ERROR: error entry (rule R280). The code and the detail are recorded, ERRCMD takes the command word that
was accepted, ERR is set, DONE and BUSY are cleared; KVALID and PVALID stay. There is no vector and no mode. -/
def State.errorEntry (t : Trap) (s : State) : State :=
  { s with errcode := t.err.code, errinfo := t.info, errcmd := s.cmd, err := true, done := false, busy := false }

/-- THE RETURN FROM AN ERROR: what SYS_CLEAR does (rules R265, R282), with the end of the command, after which DONE
stays 0 (rule R262). -/
def State.clearError (s : State) : State :=
  { s with err := false, errcode := 0, done := false, errinfo := 0, errcmd := 0, busy := false }

/-- The end of a command: success with a new state, or error entry on the state the command started from, since every
check precedes every write (rules R262, R281). -/
def finish (r : Except Trap State) (s : State) : Host.Outcome State Fault Refusal :=
  match r with
  | .ok t => .next t.complete
  | .error t => .next (s.errorEntry t)

end Sys2Proof.Machine
end

