-- ==== Sys2Proof/Machine/Operands.lean ====
section
/-! DEFINITION. The checks a command makes before it reads an operand, in the words of its rule, and the operand reads:
the configured width, word registers with their tag check, buffers with their capacity and bounds checks. -/

namespace Sys2Proof.Machine

/-- WordSize as CFG_WORDSIZE holds it; none for an unsupported value (rule R27). -/
def widthOf (b : BitVec 8) : Option Width :=
  if b = 16 then some .w16 else if b = 32 then some .w32 else if b = 64 then some .w64 else none

/-- `if CFG_WORDSIZE not in {16, 32, 64}: raise ConfigurationError(1)` (rules R121, R271). -/
def checkWidth (s : State) : Except Trap Width :=
  match widthOf s.cfgWordsize with
  | some w => .ok w
  | none => .error ⟨.configuration, 1⟩

/-- `CheckCipherConfig`: the width, then the rounds (rules R200, R271). -/
def checkCipherConfig (s : State) : Except Trap Width :=
  match checkWidth s with
  | .error t => .error t
  | .ok w => if s.cfgRounds = 0 then .error ⟨.configuration, 2⟩ else .ok w

/-- `CheckKey`: 1 to KEY_MAX key bytes (rules R204, R275). -/
def checkKey (s : State) : Except Trap Unit :=
  if s.keylen.toNat = 0 then .error ⟨.length, 1⟩
  else if s.keylen.toNat > s.params.keyMax then .error ⟨.length, 2⟩
  else .ok ()

/-- The LengthError sub-cause of a length register beyond its capacity (rules R69, R275). -/
def lengthCause : Buf → BitVec 32
  | .keymem => 2
  | .inmem => 3
  | .outmem => 6

/-- `if blen(sp) > cap(sp): raise LengthError` (rule R69). -/
def checkCapacity (s : State) (sp : Buf) : Except Trap Unit :=
  if s.blen sp > bufCap s.params sp then .error ⟨.length, lengthCause sp⟩ else .ok ()

/-- `if a + k > blen(sp): raise BufferTooShort(a)` (rule R70). -/
def checkBounds (s : State) (sp : Buf) (a k : Nat) : Except Trap Unit :=
  if a + k > s.blen sp then .error ⟨.bufferTooShort, BitVec.ofNat 32 a⟩ else .ok ()

/-- `if STATUS.KVALID = 0: raise KeyTableInvalid(0)` (rules R212, R276). -/
def checkTable (s : State) : Except Trap Unit :=
  if s.kvalid then .ok () else .error ⟨.keyTableInvalid, 0⟩

/-- `WR[r]` as an operand: the tag must be the configured width (rules R120, R277). -/
def readWord (w : Width) (s : State) (r : WReg) : Except Trap (Word w) :=
  match s.wr r with
  | .tagged t v => if t = w then .ok (v.setWidth w.bits) else .error ⟨.widthMismatch, BitVec.ofNat 32 r.number⟩
  | .untagged => .error ⟨.widthMismatch, BitVec.ofNat 32 r.number⟩

/-- `MemRead(sp, a, u)` as a w-bit word (rules R14, R65). -/
def State.wordAt (w : Width) (s : State) (sp : Buf) (a : Nat) : Word w :=
  wordOfBytes w (s.bytesAt sp a w.bytes)

/-- KEYMEM[0..KEYLEN) (rule R39). -/
def State.keyBytes (s : State) : List Byte := s.bytesAt .keymem 0 s.keylen.toNat

/-- INMEM[0..INLEN) (rule R39). -/
def State.input (s : State) : List Byte := s.bytesAt .inmem 0 s.inlen.toNat

end Sys2Proof.Machine
end

