-- ==== Sys2Proof/Machine/Lehmer.lean ====
section
/-! DEFINITION. The Lehmer generator (41_lehmer.md). -/

namespace Sys2Proof.Machine

/-- The recurrence `next(x) = (A·x + C) mod M` over the naturals, exact (rule R152). -/
def lehNext (A C M x : Nat) : Nat := (A * x + C) % M

/-- The locals of LEH_GEN and the registers its loop writes (rules R41, R155). -/
structure LehRun where
  /-- `SEQ` so far, entry 0 first. -/
  seq : List Nat
  /-- The current value. -/
  cur : Nat
  /-- The seen map: each value with the first index at which it appeared (rule R153). -/
  seen : List (Nat × Nat)
  /-- LEH_PERIOD and LEH_FIRSTOCC once a repetition has been found. -/
  found : Option (Nat × Nat)
  /-- LEH_PROGRESS. -/
  progress : Nat
deriving DecidableEq, Repr

/-- `floor(100·k/n)`, the progress after the k-th element (rule R157). -/
def lehProgressAfter (k n : Nat) : Nat := 100 * k / n

/-- Before the loop: X0 is entry 0, unreduced, and has been seen at index 0 (rules R153, R155). -/
def lehStart (n X0 : Nat) : LehRun where
  seq := [X0]
  cur := X0
  seen := [(X0, 0)]
  found := none
  progress := lehProgressAfter 1 n

/-- The loop body at index i (rules R153, R155). -/
def lehIter (A C M n i : Nat) (r : LehRun) : LehRun :=
  let x := lehNext A C M r.cur
  let p := lehProgressAfter (i + 1) n
  match r.found with
  | some f => ⟨r.seq ++ [x], x, r.seen, some f, p⟩
  | none =>
    match r.seen.lookup x with
    | none => ⟨r.seq ++ [x], x, r.seen ++ [(x, i)], none, p⟩
    | some j => ⟨r.seq ++ [x], x, r.seen, some (i - j, i), p⟩

/-- The loop from index i on, for k iterations (rule R155). -/
def lehLoop (A C M n : Nat) : Nat → Nat → LehRun → LehRun
  | 0, _, r => r
  | k + 1, i, r => lehLoop A C M n k (i + 1) (lehIter A C M n i r)

/-- The whole generation of n elements, n at least 1 (rule R155). -/
def lehRun (A C M X0 n : Nat) : LehRun := lehLoop A C M n (n - 1) 1 (lehStart n X0)

/-- The checks of LEH_GEN, in order (rule R151). -/
def checkLehmer (s : State) : Except Trap Unit :=
  if s.lehM = 0 then .error ⟨.configuration, 3⟩
  else if s.lehCount.toNat = 0 then .error ⟨.length, 4⟩
  else if s.lehCount.toNat > s.params.seqMax then .error ⟨.length, 5⟩
  else .ok ()

/-- What a finished generation leaves in the registers and SEQMEM; the entries from n on become unspecified (rules
R155, R38). Where no repetition was found PVALID, LEH_PERIOD and LEH_FIRSTOCC are 0 (rule R154). -/
def State.setSequence (r : LehRun) (s : State) : State :=
  { s with
    seqmem := r.seq.map (BitVec.ofNat 64)
    lehSeqlen := BitVec.ofNat 32 r.seq.length
    pvalid := r.found.isSome
    lehPeriod := match r.found with | some f => BitVec.ofNat 32 f.1 | none => 0
    lehFirstocc := match r.found with | some f => BitVec.ofNat 32 f.2 | none => 0
    lehProgress := BitVec.ofNat 7 r.progress
    draws := s.draws + 1 }

/-- LEH_GEN (rule R155). -/
def execLehGen (s : State) : Host.Outcome State Fault Refusal :=
  finish (do
    checkLehmer s
    pure (s.setSequence (lehRun s.lehA.toNat s.lehC.toNat s.lehM.toNat s.lehX0.toNat s.lehCount.toNat))) s

end Sys2Proof.Machine
end

