-- ==== Sys2Proof/Machine/Md5.lean ====
section
/-! DEFINITION. The MD5 commands (42_md5.md). All words are 32 bits, whatever CFG_WORDSIZE holds. -/

namespace Sys2Proof.Machine

/-- The round function and the message index of round i, on the current b, c, d (rule R174). -/
def md5Mix (i : Nat) (b c d : BitVec 32) : BitVec 32 × Nat :=
  if i < 16 then ((b &&& c) ||| (~~~b &&& d), i)
  else if i < 32 then ((d &&& b) ||| (~~~d &&& c), (5 * i + 1) % 16)
  else if i < 48 then (xorW (xorW b c) d, (3 * i + 5) % 16)
  else (xorW c (b ||| ~~~d), (7 * i) % 16)

/-- The message word k of a block: bytes 4k to 4k+3, little-endian (rules R66, R175). -/
def md5Word (block : List Byte) (k : Nat) : BitVec 32 := BitVec.ofNat 32 (fromLE ((block.drop (4 * k)).take 4))

/-- One round on the working words (rule R176): the new b is the old b plus the rotated sum. -/
def md5Round (p : Params) (mw : List (BitVec 32)) (i : Nat) (r : Acc) : Acc :=
  let (f, g) := md5Mix i r.b r.c r.d
  let sum := addW (addW (addW f r.a) (p.md5K.getD i 0)) (mw.getD g 0)
  ⟨r.d, addW r.b (rotlW sum (p.md5Sh.getD i 0)), r.b, r.c⟩

/-- The rounds from i on, k of them. -/
def md5Rounds (p : Params) (mw : List (BitVec 32)) : Nat → Nat → Acc → Acc
  | 0, _, r => r
  | k + 1, i, r => md5Rounds p mw k (i + 1) (md5Round p mw i r)

/-- The accumulators added back, each mod 2^32 (rule R176). -/
def accAdd (x y : Acc) : Acc := ⟨addW x.a y.a, addW x.b y.b, addW x.c y.c, addW x.d y.d⟩

/-- `Compress(acc, block)` (rule R176). -/
def md5Compress (p : Params) (acc : Acc) (block : List Byte) : Acc :=
  accAdd acc (md5Rounds p ((List.range 16).map (md5Word block)) 64 0 acc)

/-- `z` = (55 − n) mod 64, the number of zero bytes of the padding (rule R177). -/
def md5Zeros (n : Nat) : Nat := (55 + 64 - n % 64) % 64

/-- `Pad(msg)` (rule R177). -/
def md5Pad (msg : List Byte) : List Byte :=
  msg ++ 0x80#8 :: (List.replicate (md5Zeros msg.length) 0#8 ++ toLE 8 (8 * msg.length))

/-- Compress k blocks in increasing order (rule R180). -/
def md5Blocks (p : Params) : Nat → Acc → List Byte → Acc
  | 0, acc, _ => acc
  | k + 1, acc, bs => md5Blocks p k (md5Compress p acc (bs.take 64)) (bs.drop 64)

/-- The final accumulators of a message (rule R180): a function of its bytes alone (rule R170). -/
def md5DigestAcc (p : Params) (msg : List Byte) : Acc :=
  md5Blocks p ((md5Pad msg).length / 64) p.md5Iv (md5Pad msg)

/-- The four accumulators serialised little-endian in the order A, B, C, D (rule R180). -/
def accBytes (r : Acc) : List Byte :=
  toLE 4 r.a.toNat ++ (toLE 4 r.b.toNat ++ (toLE 4 r.c.toNat ++ toLE 4 r.d.toNat))

/-- The character of a hex digit, lower case ASCII (rule R182). -/
def hexDigit (v : Nat) : Byte := if v < 10 then BitVec.ofNat 8 (0x30 + v) else BitVec.ofNat 8 (0x61 + (v - 10))

/-- `Hex(bytes)`: two characters per byte, the upper four bits first (rule R182). -/
def hexOf : List Byte → List Byte
  | [] => []
  | b :: bs => hexDigit (b.toNat / 16) :: hexDigit (b.toNat % 16) :: hexOf bs

/-- MD5_INIT (rule R178). -/
def execMd5Init (s : State) : Host.Outcome State Fault Refusal :=
  .next { s with md5Acc := s.params.md5Iv }.complete

/-- MD5_BLOCK SPACE[off] (rule R179). It does not read CFG_WORDSIZE. -/
def execMd5Block (sp : Buf) (off : BitVec 16) (s : State) : Host.Outcome State Fault Refusal :=
  finish (do
    checkCapacity s sp
    checkBounds s sp off.toNat 64
    pure { s with md5Acc := md5Compress s.params s.md5Acc (s.bytesAt sp off.toNat 64) }) s

/-- MD5_DIGEST (rule R180): the digest of INMEM[0..INLEN) in the accumulators and in OUTMEM[0..16). -/
def execMd5Digest (s : State) : Host.Outcome State Fault Refusal :=
  finish (do
    checkCapacity s .inmem
    let acc := md5DigestAcc s.params s.input
    pure ({ s with md5Acc := acc }.setOutput (accBytes acc))) s

/-- MD5_HEX (rule R181): as MD5_DIGEST, with the 32 characters of the digest as output. -/
def execMd5Hex (s : State) : Host.Outcome State Fault Refusal :=
  finish (do
    checkCapacity s .inmem
    let acc := md5DigestAcc s.params s.input
    pure ({ s with md5Acc := acc }.setOutput (hexOf (accBytes acc)))) s

end Sys2Proof.Machine
end

