-- ==== Sys2Proof/Machine/Rc5.lean ====
section
/-! DEFINITION. The RC5 key schedule and block commands (43_rc5_block.md). The algorithms are written for every width n
in bits; a command runs them at the configured one. -/

namespace Sys2Proof.Machine

variable {n : Nat}

/-- `t` = 2·(r + 1), the number of key-table words (rules R9, R203). -/
def tableSize (r : Nat) : Nat := 2 * (r + 1)

/-- `c` = ceil(b / u), the number of words of the L table (rule R205). -/
def keyWords (u b : Nat) : Nat := (b + u - 1) / u

/-- The packing of one key byte with index k into the L table (rule R205). -/
def packByte (u : Nat) (l : List (BitVec n)) (k : Nat) (b : Byte) : List (BitVec n) :=
  l.set (k / u) (addW (rotlW (l.getD (k / u) 0) 8) (b.setWidth n))

/-- The key bytes from index k on, packed last byte first (rule R205). -/
def packFrom (u : Nat) (l : List (BitVec n)) : Nat → List Byte → List (BitVec n)
  | _, [] => l
  | k, b :: bs => packByte u (packFrom u l (k + 1) bs) k b

/-- Step 1 of the schedule: the L table of the key bytes (rule R205). -/
def packKey (u : Nat) (key : List Byte) : List (BitVec n) :=
  packFrom u (List.replicate (keyWords u key.length) 0) 0 key

/-- Step 2 of the schedule from S[q−1] = p on: the next k entries (rule R206). -/
def initTable (q : BitVec n) : Nat → BitVec n → List (BitVec n)
  | 0, _ => []
  | k + 1, p => p :: initTable q k (addW p q)

/-- The tables and variables of the mixing step (rules R41, R207). -/
structure MixState (n : Nat) where
  s : List (BitVec n)
  l : List (BitVec n)
  i : Nat
  j : Nat
  x : BitVec n
  y : BitVec n
deriving DecidableEq, Repr

/-- One iteration of the mixing (rule R207): the second line uses the new x and the old y. -/
def mixStep (m : MixState n) : MixState n :=
  let x := rotlW (addW (addW (m.s.getD m.i 0) m.x) m.y) 3
  let y := rotlW (addW (addW (m.l.getD m.j 0) x) m.y) (addW x m.y).toNat
  ⟨m.s.set m.i x, m.l.set m.j y, (m.i + 1) % m.s.length, (m.j + 1) % m.l.length, x, y⟩

/-- k iterations of the mixing (rule R207). -/
def mixLoop : Nat → MixState n → MixState n
  | 0, m => m
  | k + 1, m => mixLoop k (mixStep m)

/-- `ExpandKey` at start constant p and step constant q: the table of 2·(r + 1) words (rules R205 to R208). -/
def expandKeyWith (p q : BitVec n) (u r : Nat) (key : List Byte) : List (BitVec n) :=
  (mixLoop (3 * max (tableSize r) (keyWords u key.length))
    ⟨initTable q (tableSize r) p, packKey u key, 0, 0, 0, 0⟩).s

/-- `ExpandKey(key bytes, w, r)` (rule R208). -/
def expandKey (p : Params) (w : Width) (r : Nat) (key : List Byte) : List (Word w) :=
  expandKeyWith (p.rc5P w) (p.rc5Q w) w.bytes r key

/-- Round i of EncBlock (rule R210): B uses the A just written. -/
def encRound (S : List (BitVec n)) (i : Nat) (p : BitVec n × BitVec n) : BitVec n × BitVec n :=
  let A := addW (rotlW (xorW p.1 p.2) p.2.toNat) (S.getD (2 * i) 0)
  let B := addW (rotlW (xorW p.2 A) A.toNat) (S.getD (2 * i + 1) 0)
  (A, B)

/-- Rounds 1 to r of EncBlock, in increasing order (rule R210). -/
def encRounds (S : List (BitVec n)) : Nat → BitVec n × BitVec n → BitVec n × BitVec n
  | 0, p => p
  | r + 1, p => encRound S (r + 1) (encRounds S r p)

/-- `EncBlock(S, A, B)` with r rounds (rule R210). -/
def encBlock (S : List (BitVec n)) (r : Nat) (p : BitVec n × BitVec n) : BitVec n × BitVec n :=
  encRounds S r (addW p.1 (S.getD 0 0), addW p.2 (S.getD 1 0))

/-- Round i of DecBlock (rule R211): B is undone first, then A with the B just written. -/
def decRound (S : List (BitVec n)) (i : Nat) (p : BitVec n × BitVec n) : BitVec n × BitVec n :=
  let B := xorW (rotrW (subW p.2 (S.getD (2 * i + 1) 0)) p.1.toNat) p.1
  let A := xorW (rotrW (subW p.1 (S.getD (2 * i) 0)) B.toNat) B
  (A, B)

/-- Rounds r down to 1 of DecBlock (rule R211). -/
def decRounds (S : List (BitVec n)) : Nat → BitVec n × BitVec n → BitVec n × BitVec n
  | 0, p => p
  | r + 1, p => decRounds S r (decRound S (r + 1) p)

/-- `DecBlock(S, A, B)` with r rounds (rule R211). -/
def decBlock (S : List (BitVec n)) (r : Nat) (p : BitVec n × BitVec n) : BitVec n × BitVec n :=
  let q := decRounds S r p
  (subW q.1 (S.getD 0 0), subW q.2 (S.getD 1 0))

/-- The key table in STAB as w-bit words, entries 0 to t−1 (rules R37, R212). -/
def State.tableWords (w : Width) (s : State) : List (Word w) :=
  (List.range (tableSize s.cfgRounds.toNat)).map fun i => (s.stabEntry i).setWidth w.bits

/-- The checks of RC5_EXPAND (rule R209). -/
def checkExpand (s : State) : Except Trap Width :=
  match checkCipherConfig s with
  | .error t => .error t
  | .ok w =>
    match checkKey s with
    | .error t => .error t
    | .ok _ => .ok w

/-- The table of the present key and configuration, built into STAB (rules R209, R236, R238). -/
def State.buildTable (w : Width) (s : State) : State :=
  s.setTable w (expandKey s.params w s.cfgRounds.toNat s.keyBytes)

/-- RC5_EXPAND (rule R209). -/
def execRc5Expand (s : State) : Host.Outcome State Fault Refusal :=
  finish (do
    let w ← checkExpand s
    pure (s.buildTable w)) s

/-- The checks of the block commands, in order (rules R212, R213). -/
def checkBlock (s : State) (sp : Buf) (off : Nat) : Except Trap Width := do
  let w ← checkCipherConfig s
  checkCapacity s sp
  checkTable s
  checkBounds s sp off w.blockBytes
  pure w

/-- A block function applied in place to the two words of the block at an offset (rules R212, R213). -/
def State.blockInPlace (w : Width) (f : Word w × Word w → Word w × Word w) (sp : Buf) (off : Nat) (s : State) : State :=
  let p := f (s.wordAt w sp off, s.wordAt w sp (off + w.bytes))
  s.writeBytes sp off (wordBytes w p.1 ++ wordBytes w p.2)

/-- RC5_ENCBLK SPACE[off] (rule R212). -/
def execRc5Encblk (sp : Buf) (off : BitVec 16) (s : State) : Host.Outcome State Fault Refusal :=
  finish (do
    let w ← checkBlock s sp off.toNat
    pure (s.blockInPlace w (encBlock (s.tableWords w) s.cfgRounds.toNat) sp off.toNat)) s

/-- RC5_DECBLK SPACE[off] (rule R213). -/
def execRc5Decblk (sp : Buf) (off : BitVec 16) (s : State) : Host.Outcome State Fault Refusal :=
  finish (do
    let w ← checkBlock s sp off.toNat
    pure (s.blockInPlace w (decBlock (s.tableWords w) s.cfgRounds.toNat) sp off.toNat)) s

end Sys2Proof.Machine
end

