-- ==== Sys2Proof/Machine/Rc5Message.lean ====
section
/-! DEFINITION. The RC5 whole-message commands (44_rc5_message.md). -/

namespace Sys2Proof.Machine

/-- `Pad7(P)`: always 1 to bb bytes, each equal to their number (rule R230). -/
def pad7 (bb : Nat) (p : List Byte) : List Byte :=
  p ++ List.replicate (bb - p.length % bb) (BitVec.ofNat 8 (bb - p.length % bb))

/-- The bytes of k generated values from x on, IV_VALUE_BYTES each (rule R231). -/
def ivBytes (p : Params) : Nat → Nat → List Byte
  | 0, _ => []
  | k + 1, x => toLE p.ivValueBytes x ++ ivBytes p k (lehNext p.ivA p.ivC p.ivM x)

/-- `DeriveIV(klb, bb)` (rule R231). It reads no Lehmer register (rule R233). -/
def deriveIV (p : Params) (klb bb : Nat) : List Byte := (ivBytes p klb p.ivX0).take bb

/-- `Words(X)` of a byte string of bb bytes (44_rc5_message.md). -/
def blockWords (w : Width) (x : List Byte) : Word w × Word w :=
  (wordOfBytes w (x.take w.bytes), wordOfBytes w (x.drop w.bytes))

/-- `Bytes(A, B)`, the inverse of Words (44_rc5_message.md). -/
def blockBytes (w : Width) (p : Word w × Word w) : List Byte := wordBytes w p.1 ++ wordBytes w p.2

/-- Byte-wise exclusive or (rule R234). -/
def xorBytes (x y : List Byte) : List Byte := List.zipWith xorW x y

/-- The first m blocks of bb bytes of a byte string, in increasing order (rule R78). -/
def blocksOf (bb : Nat) : Nat → List Byte → List (List Byte)
  | 0, _ => []
  | m + 1, x => x.take bb :: blocksOf bb m (x.drop bb)

/-- The chaining of encode: each block is exclusive-ored with `prev`, encoded, and is the next `prev` (rule R234). -/
def chainEnc (enc : List Byte → List Byte) : List Byte → List (List Byte) → List Byte
  | _, [] => []
  | prev, x :: xs =>
    let c := enc (xorBytes x prev)
    c ++ chainEnc enc c xs

/-- `EncodeMsg(S, IV, PP)`: the encoded IV, then the chain, whose first `prev` is the raw IV (rule R234, conflict C3). -/
def encodeMsg (enc : List Byte → List Byte) (bb : Nat) (iv pp : List Byte) : List Byte :=
  enc iv ++ chainEnc enc iv (blocksOf bb (pp.length / bb) pp)

/-- The chaining of decode: each block is decoded, exclusive-ored with `prev`, and is itself, undecoded, the next
`prev` (rule R238). -/
def chainDec (dec : List Byte → List Byte) : List Byte → List (List Byte) → List Byte
  | _, [] => []
  | prev, c :: cs => xorBytes (dec c) prev ++ chainDec dec c cs

/-- The recovered buffer R of a ciphertext: the first block is decoded to the raw IV, the feedback of the second
(rule R238, conflict C3). -/
def decodeMsg (dec : List Byte → List Byte) (bb : Nat) (ct : List Byte) : List Byte :=
  chainDec dec (dec (ct.take bb)) (blocksOf bb (ct.length / bb - 1) (ct.drop bb))

/-- EncBlock on the bytes of a block. -/
def encBytes (w : Width) (S : List (Word w)) (r : Nat) (x : List Byte) : List Byte :=
  blockBytes w (encBlock S r (blockWords w x))

/-- DecBlock on the bytes of a block. -/
def decBytes (w : Width) (S : List (Word w)) (r : Nat) (x : List Byte) : List Byte :=
  blockBytes w (decBlock S r (blockWords w x))

/-- The padding check on the recovered buffer: its last byte p must not exceed its length; then p bytes are stripped.
Nothing else is examined, and 0 is accepted (rule R240). An empty buffer has no last byte: 0x100 (rules R240, R272). -/
def stripPadding (r : List Byte) : Except Trap (List Byte) :=
  match r.getLast? with
  | none => .error ⟨.invalidPadding, 0x100⟩
  | some p =>
    if p.toNat > r.length then .error ⟨.invalidPadding, p.setWidth 32⟩
    else .ok (r.take (r.length - p.toNat))

/-- `if 4·CFG_KLB < bb: raise ConfigurationError(4)`, the 4 being IV_VALUE_BYTES (rules R10, R232, R271). -/
def checkIv (w : Width) (s : State) : Except Trap Unit :=
  if s.params.ivValueBytes * s.cfgKlb.toNat < w.blockBytes then .error ⟨.configuration, 4⟩ else .ok ()

/-- The checks of RC5_ENCODE, in order (rule R236). -/
def checkEncode (s : State) : Except Trap Width := do
  let w ← checkCipherConfig s
  checkIv w s
  checkKey s
  checkCapacity s .inmem
  pure w

/-- RC5_ENCODE (rule R236). -/
def execRc5Encode (s : State) : Host.Outcome State Fault Refusal :=
  finish (do
    let w ← checkEncode s
    let S := expandKey s.params w s.cfgRounds.toNat s.keyBytes
    let out := encodeMsg (encBytes w S s.cfgRounds.toNat) w.blockBytes (deriveIV s.params s.cfgKlb.toNat w.blockBytes)
      (pad7 w.blockBytes s.input)
    pure ((s.buildTable w).setOutput out)) s

/-- The length check on a ciphertext of n bytes (rule R239): at least one block and a whole number of blocks. -/
def checkCiphertext (bb n : Nat) : Except Trap Unit :=
  if n < bb then .error ⟨.bufferTooShort, 0⟩
  else if n % bb ≠ 0 then .error ⟨.bufferTooShort, BitVec.ofNat 32 (n / bb * bb)⟩
  else .ok ()

/-- The checks of RC5_DECODE before its first write, in order (rule R238). CFG_KLB is not read. -/
def checkDecode (s : State) : Except Trap Width := do
  let w ← checkCipherConfig s
  checkKey s
  checkCapacity s .inmem
  checkCiphertext w.blockBytes s.inlen.toNat
  pure w

/-- RC5_DECODE (rule R238). On InvalidPadding the table has been rebuilt, OUTLEN is 0 and OUTMEM is unspecified, and
then the error is entered (rule R281, U6). -/
def execRc5Decode (s : State) : Host.Outcome State Fault Refusal :=
  match checkDecode s with
  | .error t => .next (s.errorEntry t)
  | .ok w =>
    let S := expandKey s.params w s.cfgRounds.toNat s.keyBytes
    match stripPadding (decodeMsg (decBytes w S s.cfgRounds.toNat) w.blockBytes s.input) with
    | .ok out => .next ((s.buildTable w).setOutput out).complete
    | .error t => .next (((s.buildTable w).setOutput []).errorEntry t)

end Sys2Proof.Machine
end

