-- ==== Sys2Proof/Machine/System.lean ====
section
/-! DEFINITION. The system commands (45_system.md). -/

namespace Sys2Proof.Machine

/-- SYS_NOP: nothing; DONE by completion (rule R264). -/
def execSysNop (s : State) : Host.Outcome State Fault Refusal := .next s.complete

/-- SYS_CLEAR: acknowledge an error and clear the completion flags; DONE stays 0 (rule R265). -/
def execSysClear (s : State) : Host.Outcome State Fault Refusal := .next s.clearError

end Sys2Proof.Machine
end

