-- ==== Sys2Proof/Machine/WordUnit.lean ====
section
/-! DEFINITION. The Word unit commands (40_word.md). Each checks the width first (rule R121), reads its operands with
the tag check, `ra` before `rb` (rule R120), and writes `ra` with the tag w (rule R122). -/

namespace Sys2Proof.Machine

/-- W_LD wra, SPACE[off] (rule R123). The old tag and value of ra are not read. -/
def execWLd (ra : WReg) (sp : Buf) (off : BitVec 16) (s : State) : Host.Outcome State Fault Refusal :=
  finish (do
    let w ← checkWidth s
    checkCapacity s sp
    checkBounds s sp off.toNat w.bytes
    pure (s.setWord w ra (s.wordAt w sp off.toNat))) s

/-- W_ST wra, SPACE[off] (rule R124). No length register changes and a store never extends a buffer. -/
def execWSt (ra : WReg) (sp : Buf) (off : BitVec 16) (s : State) : Host.Outcome State Fault Refusal :=
  finish (do
    let w ← checkWidth s
    checkCapacity s sp
    let v ← readWord w s ra
    checkBounds s sp off.toNat w.bytes
    pure (s.writeBytes sp off.toNat (wordBytes w v))) s

/-- W_MOV wra, wrb (rule R125): the tag check on rb only. -/
def execWMov (ra rb : WReg) (s : State) : Host.Outcome State Fault Refusal :=
  finish (do
    let w ← checkWidth s
    let v ← readWord w s rb
    pure (s.setWord w ra v)) s

/-- A command of two word registers: both are read, `ra` first, then `ra` is written (rules R92, R120, R122). -/
def wordBinary (f : (w : Width) → Word w → Word w → Word w) (ra rb : WReg) (s : State) : Except Trap State := do
  let w ← checkWidth s
  let a ← readWord w s ra
  let b ← readWord w s rb
  pure (s.setWord w ra (f w a b))

/-- A command of one word register and an immediate (rules R93, R120, R122). -/
def wordUnary (f : (w : Width) → Word w → Word w) (ra : WReg) (s : State) : Except Trap State := do
  let w ← checkWidth s
  let a ← readWord w s ra
  pure (s.setWord w ra (f w a))

/-- W_ADD wra, wrb (rule R126). -/
def execWAdd (ra rb : WReg) (s : State) : Host.Outcome State Fault Refusal :=
  finish (wordBinary (fun _ a b => addW a b) ra rb s) s

/-- W_SUB wra, wrb (rule R127). -/
def execWSub (ra rb : WReg) (s : State) : Host.Outcome State Fault Refusal :=
  finish (wordBinary (fun _ a b => subW a b) ra rb s) s

/-- W_XOR wra, wrb (rule R128). -/
def execWXor (ra rb : WReg) (s : State) : Host.Outcome State Fault Refusal :=
  finish (wordBinary (fun _ a b => xorW a b) ra rb s) s

/-- W_ADDB wra, #n: the unsigned byte, zero extended (rule R129). A term with n above 255 is not well formed and no
word decodes to it (log 17). -/
def execWAddb (ra : WReg) (n : BitVec 16) (s : State) : Host.Outcome State Fault Refusal :=
  finish (wordUnary (fun w a => addW a (n.setWidth w.bits)) ra s) s

/-- W_ROL wra, #n: the amount is taken mod w (rule R130). -/
def execWRol (ra : WReg) (n : BitVec 16) (s : State) : Host.Outcome State Fault Refusal :=
  finish (wordUnary (fun _ a => rotlW a n.toNat) ra s) s

/-- W_ROR wra, #n: the amount is taken mod w (rule R131). -/
def execWRor (ra : WReg) (n : BitVec 16) (s : State) : Host.Outcome State Fault Refusal :=
  finish (wordUnary (fun _ a => rotrW a n.toNat) ra s) s

/-- W_ROLV wra, wrb: the amount is the value of rb, taken mod w (rule R132). -/
def execWRolv (ra rb : WReg) (s : State) : Host.Outcome State Fault Refusal :=
  finish (wordBinary (fun _ a b => rotlW a b.toNat) ra rb s) s

/-- W_RORV wra, wrb: the amount is the value of rb, taken mod w (rule R133). -/
def execWRorv (ra rb : WReg) (s : State) : Host.Outcome State Fault Refusal :=
  finish (wordBinary (fun _ a b => rotrW a b.toNat) ra rb s) s

end Sys2Proof.Machine
end

