-- ==== Sys2Proof/Machine/Dispatch.lean ====
section
/-! DEFINITION. The meaning of every command: one arm per row of the opcode map (rule R96). -/

namespace Sys2Proof.Machine

/-- The rule of an accepted command, from its first line to its end (rules R261, R262). -/
def exec (i : Instr) (s : State) : Host.Outcome State Fault Refusal :=
  match i with
  | .sysNop => Sys2Proof.Machine.execSysNop s
  | .sysClear => Sys2Proof.Machine.execSysClear s
  | .wLd ra sp off => Sys2Proof.Machine.execWLd ra sp off s
  | .wSt ra sp off => Sys2Proof.Machine.execWSt ra sp off s
  | .wMov ra rb => Sys2Proof.Machine.execWMov ra rb s
  | .wAdd ra rb => Sys2Proof.Machine.execWAdd ra rb s
  | .wSub ra rb => Sys2Proof.Machine.execWSub ra rb s
  | .wXor ra rb => Sys2Proof.Machine.execWXor ra rb s
  | .wAddb ra n => Sys2Proof.Machine.execWAddb ra n s
  | .wRol ra n => Sys2Proof.Machine.execWRol ra n s
  | .wRor ra n => Sys2Proof.Machine.execWRor ra n s
  | .wRolv ra rb => Sys2Proof.Machine.execWRolv ra rb s
  | .wRorv ra rb => Sys2Proof.Machine.execWRorv ra rb s
  | .lehGen => Sys2Proof.Machine.execLehGen s
  | .md5Init => Sys2Proof.Machine.execMd5Init s
  | .md5Block sp off => Sys2Proof.Machine.execMd5Block sp off s
  | .md5Digest => Sys2Proof.Machine.execMd5Digest s
  | .md5Hex => Sys2Proof.Machine.execMd5Hex s
  | .rc5Expand => Sys2Proof.Machine.execRc5Expand s
  | .rc5Encblk sp off => Sys2Proof.Machine.execRc5Encblk sp off s
  | .rc5Decblk sp off => Sys2Proof.Machine.execRc5Decblk sp off s
  | .rc5Encode => Sys2Proof.Machine.execRc5Encode s
  | .rc5Decode => Sys2Proof.Machine.execRc5Decode s

end Sys2Proof.Machine
end

