-- ==== Sys2Proof/WellFormed.lean ====
section
/-! DEFINITION. Which terms of Instr are commands that a command word can hold (rules R90 to R95). The register and
space fields are well formed by their types; the byte immediate of W_ADDB is checked here. -/

namespace Sys2Proof

/-- W_ADDB carries one byte in its 16-bit immediate: 0 to 255 (rules R93, R95, R98). Every other operand form takes
every value of its type. -/
def Instr.wellFormed : Instr → Bool
  | .wAddb _ n => decide (n.toNat ≤ 255)
  | .sysNop | .sysClear | .lehGen | .md5Init | .md5Digest | .md5Hex | .rc5Expand | .rc5Encode | .rc5Decode => true
  | .wLd _ _ _ | .wSt _ _ _ | .wMov _ _ | .wAdd _ _ | .wSub _ _ | .wXor _ _ => true
  | .wRol _ _ | .wRor _ _ | .wRolv _ _ | .wRorv _ _ => true
  | .md5Block _ _ | .rc5Encblk _ _ | .rc5Decblk _ _ => true

end Sys2Proof
end

