-- ==== Sys2Proof/Decode.lean ====
section
/-! DEFINITION. The command word: its fields (rule R90), the decoder (rules R91 to R98), the opcode map as masks and
matches (rule R96), and the encoder (rule R100). -/

namespace Sys2Proof

/-- `opc`, bits 7:0 (rule R90). -/
def fieldOpc (c : BitVec 32) : BitVec 8 := c.extractLsb' 0 8

/-- `ra`, bits 11:8 (rule R90). -/
def fieldRa (c : BitVec 32) : BitVec 4 := c.extractLsb' 8 4

/-- `rb` or `sp`, bits 15:12 (rule R90). -/
def fieldRb (c : BitVec 32) : BitVec 4 := c.extractLsb' 12 4

/-- `imm16`, bits 31:16 (rule R90). -/
def fieldImm (c : BitVec 32) : BitVec 16 := c.extractLsb' 16 16

/-- Why a command word is illegal, the cases of rule R98. -/
inductive Illegal where
  /-- `opc` is outside the 23 listed. -/
  | reservedOpcode
  /-- A must-be-zero bit is set. -/
  | mustBeZero
  /-- A register field is above 3. -/
  | registerField
  /-- The space select is above 2. -/
  | spaceSelect
  /-- W_ADDB with imm16 above 255. -/
  | byteImmediate
deriving DecidableEq, Repr

/-- The word register a register field names; none above 3 (rules R90, R95). -/
def WReg.ofField : BitVec 4 → Option WReg
  | 0#4 => some .wr0
  | 1#4 => some .wr1
  | 2#4 => some .wr2
  | 3#4 => some .wr3
  | _ => none

/-- The byte space a space select names; none above 2 (rule R94). -/
def Buf.ofField : BitVec 4 → Option Buf
  | 0#4 => some .keymem
  | 1#4 => some .inmem
  | 2#4 => some .outmem
  | _ => none

/-- Format N: bits 31:8 must be 0 (rule R91). -/
def formatN (c : BitVec 32) (i : Instr) : Except Illegal Instr :=
  if fieldRa c = 0#4 ∧ fieldRb c = 0#4 ∧ fieldImm c = 0#16 then .ok i else .error .mustBeZero

/-- Format R: two word registers, bits 31:16 must be 0 (rule R92). -/
def formatR (c : BitVec 32) (k : WReg → WReg → Instr) : Except Illegal Instr :=
  if fieldImm c = 0#16 then
    match WReg.ofField (fieldRa c), WReg.ofField (fieldRb c) with
    | some a, some b => .ok (k a b)
    | _, _ => .error .registerField
  else .error .mustBeZero

/-- Format I: a word register and the immediate, bits 15:12 must be 0 (rule R93). -/
def formatI (c : BitVec 32) (k : WReg → BitVec 16 → Instr) : Except Illegal Instr :=
  if fieldRb c = 0#4 then
    match WReg.ofField (fieldRa c) with
    | some a => .ok (k a (fieldImm c))
    | none => .error .registerField
  else .error .mustBeZero

/-- Format I of W_ADDB: bits 31:24 must also be 0 (rule R93). -/
def formatIByte (c : BitVec 32) (k : WReg → BitVec 16 → Instr) : Except Illegal Instr :=
  if (fieldImm c).toNat ≤ 255 then formatI c k else .error .byteImmediate

/-- Format M of W_LD and W_ST: a word register, a space select and a byte offset (rule R94). -/
def formatMReg (c : BitVec 32) (k : WReg → Buf → BitVec 16 → Instr) : Except Illegal Instr :=
  match WReg.ofField (fieldRa c), Buf.ofField (fieldRb c) with
  | some a, some sp => .ok (k a sp (fieldImm c))
  | some _, none => .error .spaceSelect
  | none, _ => .error .registerField

/-- Format M of the block commands: `ra` = 0 is required (rule R94). -/
def formatM (c : BitVec 32) (k : Buf → BitVec 16 → Instr) : Except Illegal Instr :=
  if fieldRa c = 0#4 then
    match Buf.ofField (fieldRb c) with
    | some sp => .ok (k sp (fieldImm c))
    | none => .error .spaceSelect
  else .error .mustBeZero

/-- The decoder: total on all 2^32 words, reading no register (rule R97); a word it does not decode is illegal, with
the reason of rule R98. -/
def decode (c : BitVec 32) : Except Illegal Instr :=
  match fieldOpc c with
  | 0x00#8 => formatN c .sysNop
  | 0x01#8 => formatN c .sysClear
  | 0x10#8 => formatMReg c .wLd
  | 0x11#8 => formatMReg c .wSt
  | 0x12#8 => formatR c .wMov
  | 0x13#8 => formatR c .wAdd
  | 0x14#8 => formatR c .wSub
  | 0x15#8 => formatR c .wXor
  | 0x16#8 => formatIByte c .wAddb
  | 0x17#8 => formatI c .wRol
  | 0x18#8 => formatI c .wRor
  | 0x19#8 => formatR c .wRolv
  | 0x1A#8 => formatR c .wRorv
  | 0x20#8 => formatN c .lehGen
  | 0x30#8 => formatN c .md5Init
  | 0x31#8 => formatM c .md5Block
  | 0x32#8 => formatN c .md5Digest
  | 0x33#8 => formatN c .md5Hex
  | 0x40#8 => formatN c .rc5Expand
  | 0x41#8 => formatM c .rc5Encblk
  | 0x42#8 => formatM c .rc5Decblk
  | 0x43#8 => formatN c .rc5Encode
  | 0x44#8 => formatN c .rc5Decode
  | _ => .error .reservedOpcode

/-- One row of the opcode map of rule R96. `spaceNot3` is the row's extra condition `sp` ≠ 3. -/
structure MapRow where
  mask : BitVec 32
  value : BitVec 32
  spaceNot3 : Bool
deriving DecidableEq, Repr

/-- Does the row match the word: `c AND mask = match` and the extra condition holds (rules R96, R97). -/
def MapRow.accepts (r : MapRow) (c : BitVec 32) : Bool :=
  (c &&& r.mask == r.value) && (!r.spaceNot3 || fieldRb c != 3#4)

/-- The opcode map of rule R96, row by row. The decoder above is written from the formats of rules R91 to R94; that
the two agree is a statement. -/
def opcodeMap : List MapRow :=
  [⟨0xFFFFFFFF#32, 0x00000000#32, false⟩, ⟨0xFFFFFFFF#32, 0x00000001#32, false⟩,
   ⟨0x0000CCFF#32, 0x00000010#32, true⟩, ⟨0x0000CCFF#32, 0x00000011#32, true⟩,
   ⟨0xFFFFCCFF#32, 0x00000012#32, false⟩, ⟨0xFFFFCCFF#32, 0x00000013#32, false⟩,
   ⟨0xFFFFCCFF#32, 0x00000014#32, false⟩, ⟨0xFFFFCCFF#32, 0x00000015#32, false⟩,
   ⟨0xFF00FCFF#32, 0x00000016#32, false⟩, ⟨0x0000FCFF#32, 0x00000017#32, false⟩,
   ⟨0x0000FCFF#32, 0x00000018#32, false⟩, ⟨0xFFFFCCFF#32, 0x00000019#32, false⟩,
   ⟨0xFFFFCCFF#32, 0x0000001A#32, false⟩, ⟨0xFFFFFFFF#32, 0x00000020#32, false⟩,
   ⟨0xFFFFFFFF#32, 0x00000030#32, false⟩, ⟨0x0000CFFF#32, 0x00000031#32, true⟩,
   ⟨0xFFFFFFFF#32, 0x00000032#32, false⟩, ⟨0xFFFFFFFF#32, 0x00000033#32, false⟩,
   ⟨0xFFFFFFFF#32, 0x00000040#32, false⟩, ⟨0x0000CFFF#32, 0x00000041#32, true⟩,
   ⟨0x0000CFFF#32, 0x00000042#32, true⟩, ⟨0xFFFFFFFF#32, 0x00000043#32, false⟩,
   ⟨0xFFFFFFFF#32, 0x00000044#32, false⟩]

/-- The four fields put together: opc + 256·ra + 4096·rb + 65536·imm16 (rule R100). -/
def wordOf (opc : BitVec 8) (ra rb : Nat) (imm : BitVec 16) : BitVec 32 :=
  imm ++ BitVec.ofNat 4 rb ++ BitVec.ofNat 4 ra ++ opc

/-- The command word of a command (rules R96, R100). -/
def encode : Instr → BitVec 32
  | .sysNop => wordOf 0x00#8 0 0 0#16
  | .sysClear => wordOf 0x01#8 0 0 0#16
  | .wLd ra sp off => wordOf 0x10#8 ra.number sp.code off
  | .wSt ra sp off => wordOf 0x11#8 ra.number sp.code off
  | .wMov ra rb => wordOf 0x12#8 ra.number rb.number 0#16
  | .wAdd ra rb => wordOf 0x13#8 ra.number rb.number 0#16
  | .wSub ra rb => wordOf 0x14#8 ra.number rb.number 0#16
  | .wXor ra rb => wordOf 0x15#8 ra.number rb.number 0#16
  | .wAddb ra n => wordOf 0x16#8 ra.number 0 n
  | .wRol ra n => wordOf 0x17#8 ra.number 0 n
  | .wRor ra n => wordOf 0x18#8 ra.number 0 n
  | .wRolv ra rb => wordOf 0x19#8 ra.number rb.number 0#16
  | .wRorv ra rb => wordOf 0x1A#8 ra.number rb.number 0#16
  | .lehGen => wordOf 0x20#8 0 0 0#16
  | .md5Init => wordOf 0x30#8 0 0 0#16
  | .md5Block sp off => wordOf 0x31#8 0 sp.code off
  | .md5Digest => wordOf 0x32#8 0 0 0#16
  | .md5Hex => wordOf 0x33#8 0 0 0#16
  | .rc5Expand => wordOf 0x40#8 0 0 0#16
  | .rc5Encblk sp off => wordOf 0x41#8 0 sp.code off
  | .rc5Decblk sp off => wordOf 0x42#8 0 sp.code off
  | .rc5Encode => wordOf 0x43#8 0 0 0#16
  | .rc5Decode => wordOf 0x44#8 0 0 0#16

/-- The command word that `nbits` bits of `w` stand for: a command is one 32-bit word (rule R90), every bit above
`nbits` zero. -/
def commandWord (nbits w : Nat) : BitVec 32 := BitVec.ofNat 32 (w % 2 ^ nbits)

/-- What the decoder reads from a command whose bits are `w`; none where the word is illegal. -/
def decodeTableWord (nbits w : Nat) : Option Instr :=
  match decode (commandWord nbits w) with
  | .ok i => some i
  | .error _ => none

end Sys2Proof
end

