-- ==== Sys2Proof/Machine/HostPort.lean ====
section
/-! DEFINITION. The host's moves on the register and buffer spaces (rules R21, R43, R61), the issue of a command (rules
R260, R261), what the host sees while a command runs (rules R157, R263, R320), and the reset event (rule R310). -/

namespace Sys2Proof.Machine

/-- A host read of a word register: the value, or the free value while the tag is none (rule R31, U1). -/
def State.wrRead (s : State) (r : WReg) : BitVec 64 :=
  match s.wr r with
  | .tagged _ v => v
  | .untagged => Config.free s.draws (.word r)

/-- `HostRead(n)` while BUSY = 0: the register zero extended to 64 bits; CMD and every reserved number read 0 (rules R21,
R43). -/
def readReg (s : State) (n : Nat) : BitVec 64 :=
  match n with
  | 0x00 => 0
  | 0x01 => s.status
  | 0x02 => s.errinfo.setWidth 64
  | 0x03 => s.errcmd.setWidth 64
  | 0x04 => s.cfgWordsize.setWidth 64
  | 0x05 => s.cfgRounds.setWidth 64
  | 0x06 => s.cfgKlb.setWidth 64
  | 0x07 => s.keylen.setWidth 64
  | 0x08 => s.inlen.setWidth 64
  | 0x09 => s.outlen.setWidth 64
  | 0x0A => s.wrRead .wr0
  | 0x0B => s.wrRead .wr1
  | 0x0C => s.wrRead .wr2
  | 0x0D => s.wrRead .wr3
  | 0x10 => s.lehA
  | 0x11 => s.lehC
  | 0x12 => s.lehM
  | 0x13 => s.lehX0
  | 0x14 => s.lehCount.setWidth 64
  | 0x15 => s.lehSeqlen.setWidth 64
  | 0x16 => s.lehPeriod.setWidth 64
  | 0x17 => s.lehFirstocc.setWidth 64
  | 0x18 => s.lehProgress.setWidth 64
  | 0x20 => s.md5Acc.a.setWidth 64
  | 0x21 => s.md5Acc.b.setWidth 64
  | 0x22 => s.md5Acc.c.setWidth 64
  | 0x23 => s.md5Acc.d.setWidth 64
  | _ => 0

/-- A host write of a word register: the value mod 2^w with the tag w when CFG_WORDSIZE is supported, else the tag none,
whose value is unspecified from then on (rule R31, U1). -/
def hostWriteWr (s : State) (r : WReg) (v : BitVec 64) : State :=
  match widthOf s.cfgWordsize with
  | some w => s.setWord w r (v.setWidth w.bits)
  | none => { s.setWr r .untagged with draws := s.draws + 1 }

/-- `v mod 2^LW`, what a Lehmer register holds after a host write (rules R21, R32). -/
def lehmerWidth (s : State) (v : BitVec 64) : BitVec 64 := BitVec.ofNat 64 (v.toNat % 2 ^ s.params.lw)

/-- `HostWrite(n, v)` of a register other than CMD while BUSY = 0: a writable register of width n takes v mod 2^n; a
read-only or reserved number changes nothing; CFG_WORDSIZE and CFG_ROUNDS clear KVALID (rules R21, R43, R321). -/
def writeReg (s : State) (n : Nat) (v : BitVec 64) : State :=
  match n with
  | 0x04 => { s with cfgWordsize := v.setWidth 8 }.clearKvalid
  | 0x05 => { s with cfgRounds := v.setWidth 8 }.clearKvalid
  | 0x06 => { s with cfgKlb := v.setWidth 16 }
  | 0x07 => { s with keylen := v.setWidth 16 }
  | 0x08 => { s with inlen := v.setWidth 32 }
  | 0x09 => { s with outlen := v.setWidth 32 }
  | 0x0A => hostWriteWr s .wr0 v
  | 0x0B => hostWriteWr s .wr1 v
  | 0x0C => hostWriteWr s .wr2 v
  | 0x0D => hostWriteWr s .wr3 v
  | 0x10 => { s with lehA := lehmerWidth s v }
  | 0x11 => { s with lehC := lehmerWidth s v }
  | 0x12 => { s with lehM := lehmerWidth s v }
  | 0x13 => { s with lehX0 := lehmerWidth s v }
  | 0x14 => { s with lehCount := v.setWidth 32 }
  | 0x20 => { s with md5Acc := { s.md5Acc with a := v.setWidth 32 } }
  | 0x21 => { s with md5Acc := { s.md5Acc with b := v.setWidth 32 } }
  | 0x22 => { s with md5Acc := { s.md5Acc with c := v.setWidth 32 } }
  | 0x23 => { s with md5Acc := { s.md5Acc with d := v.setWidth 32 } }
  | _ => s

/-- The command word SYS_CLEAR, the only one that is accepted while ERR = 1 (rules R261, R283). -/
def clearWord : BitVec 32 := 0x00000001#32

/-- A host write of c to CMD while BUSY = 0: while ERR = 1 every word but SYS_CLEAR is discarded, undecoded, and nothing
changes; else the command is accepted (rules R260, R261, R283). -/
def issue (s : State) (c : BitVec 32) : State :=
  if s.err && c != clearWord then s else s.accept c

/-- `HostWrite(n, v)`: turned away while BUSY = 1 (rule R320); a write to register 0 issues a command (rule R61). -/
def hostWrite (s : State) (n : Nat) (v : BitVec 64) : State :=
  if s.busy then s else if n = 0 then issue s (v.setWidth 32) else writeReg s n v

/-- Did the checks of a command pass. -/
def passes {α : Type} : Except Trap α → Bool
  | .ok _ => true
  | .error _ => false

/-- Does the running command rebuild the key table, so that it sets KVALID at some point of its run (rule R40). -/
def rebuildsTable (s : State) : Bool :=
  match decode s.cmd with
  | .ok .rc5Expand => passes (checkExpand s)
  | .ok .rc5Encode => passes (checkEncode s)
  | .ok .rc5Decode => passes (checkDecode s)
  | _ => false

/-- Is the running command a LEH_GEN that generates, so that it writes PVALID and LEH_PROGRESS in its run (rule R155). -/
def generates (s : State) : Bool :=
  match decode s.cmd with
  | .ok .lehGen => passes (checkLehmer s)
  | _ => false

/-- The last point of the run of the command in CMD, in points a host read can tell apart. A command that rebuilds the
table has two: 0 before KVALID <- 1 and 1 after it (rule R40). A LEH_GEN that generates n elements has 2·n + 2: 0 before
its first assignment, 1 after PVALID <- 0 and LEH_PROGRESS <- 0, 2·k when element k is stored and its period, if any,
recorded, 2·k + 1 when its progress is (rule R155). Any other command has one. -/
def lastPoint (s : State) : Nat :=
  if rebuildsTable s then 1 else if generates s then 2 * s.lehCount.toNat + 1 else 0

/-- STATUS.KVALID at a point of the run of the command in CMD (rule R40). -/
def kvalidAt (s : State) (k : Nat) : Bool := s.kvalid || (rebuildsTable s && decide (1 ≤ k))

/-- STATUS.PVALID at a point of the run of the command in CMD: from point 1 on, whether the elements stored by then hold
a repetition (rules R40, R155). -/
def pvalidAt (s : State) (k : Nat) : Bool :=
  if generates s && decide (1 ≤ k) then
    (lehRun s.lehA.toNat s.lehC.toNat s.lehM.toNat s.lehX0.toNat (k / 2)).found.isSome
  else s.pvalid

/-- LEH_PROGRESS at a point, from 1 on, of a run of LEH_GEN: floor(100·e/n) for the e elements whose progress is
recorded by then (rules R155, R157). -/
def progressAt (s : State) (k : Nat) : Nat := lehProgressAfter ((k - 1) / 2) s.lehCount.toNat

/-- Where the running command stands when the host looks: any point from `lo` and from the last one seen on (rule R157,
U8; log 9, log 11). -/
def pointInFlight (s : State) (lo : Nat) : Nat :=
  min (lastPoint s)
    (max lo s.seen + (Config.free s.draws .busyPoint).toNat % (lastPoint s + 1 - max lo s.seen))

/-- STATUS as the host reads it at a point of a run: BUSY, DONE and ERR read 1, 0, 0 (rule R263; log 10), KVALID and
PVALID as at that point (rule R40). -/
def statusInFlight (s : State) (k : Nat) : BitVec 64 := statusWord true false false (kvalidAt s k) (pvalidAt s k) 0

/-- `HostRead(n)` while BUSY = 1: STATUS and LEH_PROGRESS can be read, and what they show never goes back in the run;
every other register returns an unspecified value (rules R320, R40, R157, U7, U8). -/
def readBusy (s : State) (n : Nat) : State :=
  if n = 0x01 then
    { s with
      hostData := statusInFlight s (pointInFlight s 0)
      seen := pointInFlight s 0
      draws := s.draws + 1 }
  else if n = 0x18 then
    if generates s then
      { s with
        hostData := BitVec.ofNat 64 (progressAt s (pointInFlight s 1))
        seen := pointInFlight s 1
        draws := s.draws + 1 }
    else { s with hostData := s.lehProgress.setWidth 64 }
  else { s with hostData := Config.free s.draws .busyRead, draws := s.draws + 1 }

/-- `HostRead(n)` (rules R21, R61, R320). -/
def hostRead (s : State) (n : Nat) : State :=
  if s.busy then readBusy s n else { s with hostData := readReg s n }

/-- The size of a space in its units (rule R60). -/
def spaceSize (p : Params) : Space → Nat
  | .bytes sp => bufCap p sp
  | .stab => Config.stabMax
  | .seqmem => p.seqMax

/-- An entry of SEQMEM: entries 0 to LEH_SEQLEN−1 are the last sequence, the others are the free value (rule R38, U3;
log 6). -/
def State.seqEntry (s : State) (i : Nat) : BitVec 64 :=
  match s.seqmem[i]? with
  | some v => if i < s.lehSeqlen.toNat then v else lehmerWidth s (Config.free s.draws (.seq i))
  | none => lehmerWidth s (Config.free s.draws (.seq i))

/-- What a host read of one unit of a space gives while BUSY = 0 (rule R61): a byte, an entry of a valid table (rule R37),
an entry of the last sequence (rule R38), each zero extended; the free value where the contents are unspecified (U2 to
U6). -/
def unitAt (s : State) (sp : Space) (a : Nat) : BitVec 64 :=
  match sp with
  | .bytes b => (s.byteAt b a).setWidth 64
  | .stab =>
    if s.kvalid && decide (a < tableSize s.cfgRounds.toNat) then s.stabEntry a else Config.free s.draws (.stab a)
  | .seqmem => s.seqEntry a

/-- `HostBufRead(sp, a)`: one unit of a space; an unspecified value while BUSY = 1; an index at or beyond the size has no
meaning (rules R61, R320; log 12). -/
def hostBufRead (s : State) (sp : Space) (a : Nat) : Host.Outcome State Fault Refusal :=
  if spaceSize s.params sp ≤ a then .fault (.outsideSpace sp a)
  else if s.busy then .next { s with hostData := Config.free s.draws .busyRead, draws := s.draws + 1 }
  else .next { s with hostData := unitAt s sp a }

/-- `HostBufWrite(sp, a, b)`: one byte of a byte space; nothing changes while BUSY = 1; no length register and not KVALID;
an index at or beyond the size has no meaning (rules R61, R320; log 12). -/
def hostBufWrite (s : State) (sp : Buf) (a : Nat) (b : Byte) : Host.Outcome State Fault Refusal :=
  if bufCap s.params sp ≤ a then .fault (.outsideSpace (.bytes sp) a)
  else if s.busy then .next s
  else .next (s.setBuf sp (memSet (s.buf sp) a b))

/-- The reset event, at any time: every field of the CORE as after reset, a running command abandoned (rules R310 to
R312). What the host has read and the moves still to come are not the CORE's and stay, and so do the parameters, which
are no state; the counter goes on, so that the unspecified contents after this reset are not those before it (log 13). -/
def resetEvent (s : State) : State :=
  { State.reset with params := s.params, schedule := s.schedule, hostData := s.hostData, draws := s.draws + 1 }

end Sys2Proof.Machine
end

