-- ==== Sys2Proof/Machine/Sequencer.lean ====
section
/-! DEFINITION. The sequencer's move (rules R261, R262) and the moves in their order (log 2). -/

namespace Sys2Proof.Machine

/-- The sequencer moves: while BUSY = 1 the accepted word is decoded; an illegal word raises IllegalCommand(0); else its
rule runs from its first line to its end (rules R261, R262, R274). While BUSY = 0 it waits (rule R310). -/
def coreMove (s : State) : Host.Outcome State Fault Refusal :=
  if s.busy then
    match decode s.cmd with
    | .ok i => exec i s
    | .error _ => .next (s.errorEntry ⟨.illegalCommand, 0⟩)
  else .next s

/-- One move of one agent (rules R15, R61, R310). -/
def makeMove (m : Move) (s : State) : Host.Outcome State Fault Refusal :=
  match m with
  | .core => coreMove s
  | .reset => .next (resetEvent s)
  | .write n v => .next (hostWrite s n v)
  | .read n => .next (hostRead s n)
  | .bufWrite sp a b => hostBufWrite s sp a b
  | .bufRead sp a => hostBufRead s sp a

/-- The first move of the schedule is made; when no move is left the sequencer goes on by itself, since every accepted
command ends (rule R331; log 2). -/
def nextMove (s : State) : Host.Outcome State Fault Refusal :=
  match s.schedule with
  | [] => coreMove s
  | m :: rest => makeMove m { s with schedule := rest }

/-- The state in which the command word of `nbits` bits of `w` has been accepted and the sequencer moves next (log 3). -/
def acceptWord (s : State) (nbits w : Nat) : State :=
  { s.accept (commandWord nbits w) with schedule := .core :: s.schedule }

end Sys2Proof.Machine
end

