-- ==== Sys2Proof/Machine/Step.lean ====
section
/-! DEFINITION. One step of the machine. -/

namespace Sys2Proof.Machine

/-- One step: the next move of the schedule, or the sequencer's (log 2). -/
def step (s : State) : Host.Outcome State Fault Refusal := nextMove s

/-- The state whose very next step runs the command whose bits are `w`: the host has written the word to CMD and it has
been accepted, in place of a fetch, which this machine has none of (rules R22, R79, R260; log 3). -/
def State.withFetchWord (s : State) (nbits w : Nat) : State := acceptWord s nbits w

end Sys2Proof.Machine
end

