-- ==== Sys2Proof/Safety.lean ====
section
/-! DEFINITION. The terms the statements use: what is observed and what a good run is (rule R17), what a legal state is,
the end states of a command written out field by field, and which error each command can raise. -/

namespace Sys2Proof.Machine

/-- The host-visible state of the CORE (rule R20), with the unspecified contents left out. -/
structure Observation where
  /-- The registers of rule R43 but the word registers, each number with what a read of it gives (rule R21). -/
  regs : List (Nat × BitVec 64)
  /-- WR0 to WR3, each with its tag (rule R31). -/
  words : List WordReg
  /-- The entries of STAB that are the table; none while KVALID = 0 (rule R37). -/
  stab : List (BitVec 64)
  /-- The entries of SEQMEM below LEH_SEQLEN (rule R38). -/
  seqmem : List (BitVec 64)
  /-- The written bytes of the three buffers (rules R39, R74). -/
  keymem : Memory
  inmem : Memory
  outmem : Memory
deriving DecidableEq, Repr

/-- The register numbers of rule R43 but those of the word registers. -/
def registerNumbers : List Nat :=
  [0x00, 0x01, 0x02, 0x03, 0x04, 0x05, 0x06, 0x07, 0x08, 0x09, 0x10, 0x11, 0x12, 0x13, 0x14, 0x15, 0x16, 0x17, 0x18,
   0x20, 0x21, 0x22, 0x23]

/-- The observation a claim is stated through: the host-visible state at a point where BUSY = 0; none while BUSY = 1
(rule R17). -/
def State.observe (s : State) : Option Observation :=
  if s.busy then none
  else some
    { regs := registerNumbers.map fun n => (n, readReg s n)
      words := [s.wr0, s.wr1, s.wr2, s.wr3]
      stab := if s.kvalid then s.stab.take (tableSize s.cfgRounds.toNat) else []
      seqmem := s.seqmem.take s.lehSeqlen.toNat
      keymem := s.keymem
      inmem := s.inmem
      outmem := s.outmem }

/-- The host's moves of rule R61. The sequencer's move and the reset event are other agents' (rules R15, R310). -/
def Move.isHost : Move → Bool
  | .write _ _ | .read _ | .bufWrite _ _ _ | .bufRead _ _ => true
  | .core | .reset => false

/-- The run of a host script has ended: its last host move has been made and BUSY = 0 (rule R17). A reset that
is still scheduled then is no part of the run. -/
def State.ended (s : State) : Bool := !s.schedule.any Move.isHost && !s.busy

/-- A run is good when ERR = 0 at its end (rule R17). -/
def State.good (s : State) : Bool := s.ended && !s.err

/-- The state in which the run that starts in s ends, if it comes to its end in at most k steps (rule R17). -/
def runToEnd : Nat → State → Option State
  | 0, s => if s.ended then some s else none
  | k + 1, s =>
    if s.ended then some s
    else match step s with
      | .next t => runToEnd k t
      | _ => none

/-- The run that starts in s ends in t (rule R17). -/
def State.endsIn (t s : State) : Prop := ∃ k, runToEnd k s = some t

/-- The run that starts in s ends and is good (rule R17). -/
def State.runGood (s : State) : Prop := ∃ t : State, t.endsIn s ∧ t.good = true

/-- A move that rule R61 gives a meaning: a host buffer move has its index inside the space. -/
def Move.hasMeaning (p : Params) : Move → Bool
  | .bufWrite sp a _ => decide (a < spaceSize p (.bytes sp))
  | .bufRead sp a => decide (a < spaceSize p sp)
  | .core | .reset | .write _ _ | .read _ => true

/-- CFG_WORDSIZE holds the width w as a plain number of bits (rule R27). -/
abbrev State.configured (w : Width) (s : State) : Prop := s.cfgWordsize = BitVec.ofNat 8 w.bits

/-- CFG_WORDSIZE holds none of 16, 32 and 64 (rule R27). -/
abbrev State.unsupported (s : State) : Prop := s.cfgWordsize ≠ 16 ∧ s.cfgWordsize ≠ 32 ∧ s.cfgWordsize ≠ 64

/-- The word register r holds the w-bit value v under the tag w (rule R31). -/
abbrev State.holds (w : Width) (r : WReg) (v : Word w) (s : State) : Prop := s.wr r = .tagged w (v.setWidth 64)

/-- The tag of r is not w (rule R120). -/
abbrev State.mistagged (w : Width) (r : WReg) (s : State) : Prop := ∀ v : BitVec 64, s.wr r ≠ .tagged w v

/-- A successful end: BUSY 0, DONE 1, everything else as it is (rule R262). -/
def State.succeeded (s : State) : State := { s with busy := false, done := true }

/-- A failed end: the fields of rule R280 and nothing else. -/
def State.failed (code : BitVec 4) (info : BitVec 32) (s : State) : State :=
  { s with errcode := code, errinfo := info, errcmd := s.cmd, err := true, done := false, busy := false }

/-- A word register holds a value below 2^tag (rule R31). -/
def WordReg.legal : WordReg → Bool
  | .untagged => true
  | .tagged w v => decide (v.toNat < 2 ^ w.bits)

/-- The flags BUSY, DONE and ERR are in one of the combinations of rule R263; while SYS_CLEAR runs ERR may still be 1
(log 10). -/
abbrev State.flagsLegal (s : State) : Prop :=
  (s.busy = true → s.done = false) ∧ (s.done = true → s.err = false) ∧
    (s.busy = true → s.err = true → s.cmd = 0x00000001#32)

/-- The error record: a code 1 to 7 while ERR = 1, and zeros while ERR = 0 (rules R24 to R26, R270). -/
abbrev State.errorLegal (s : State) : Prop :=
  if s.err = true then 1 ≤ s.errcode.toNat ∧ s.errcode.toNat ≤ 7
  else s.errcode = 0 ∧ s.errinfo = 0 ∧ s.errcmd = 0

/-- While KVALID = 1, STAB holds 2·(r + 1) words of the configured width (rules R37, R214). -/
abbrev State.tableLegal (s : State) : Prop :=
  s.kvalid = true →
    ∃ w ∈ [Width.w16, Width.w32, Width.w64],
      s.configured w ∧ s.cfgRounds ≠ 0 ∧ s.stab.length = 2 * (s.cfgRounds.toNat + 1) ∧
        ∀ v ∈ s.stab, v.toNat < 2 ^ w.bits

/-- The Lehmer inputs and the entries of SEQMEM are LW-bit numbers (rules R32, R38). -/
abbrev State.lehmerWidths (s : State) : Prop :=
  (∀ v ∈ [s.lehA, s.lehC, s.lehM, s.lehX0], v.toNat < 2 ^ s.params.lw) ∧ ∀ v ∈ s.seqmem, v.toNat < 2 ^ s.params.lw

/-- The Lehmer results: LEH_SEQLEN entries in SEQMEM, progress 0 to 100, a period only under PVALID (rules R34, R35,
R38). -/
abbrev State.lehmerLegal (s : State) : Prop :=
  s.seqmem.length = s.lehSeqlen.toNat ∧ s.lehSeqlen.toNat ≤ s.params.seqMax ∧ s.lehProgress.toNat ≤ 100 ∧
    if s.pvalid = true then
      0 < s.lehPeriod.toNat ∧ s.lehPeriod.toNat ≤ s.lehFirstocc.toNat ∧ s.lehFirstocc.toNat < s.lehSeqlen.toNat
    else s.lehPeriod = 0 ∧ s.lehFirstocc = 0

/-- A byte space in canonical form with every offset inside the space (rule R60). -/
abbrev State.memLegal (s : State) (sp : Buf) : Prop := memWf (s.buf sp) ∧ ∀ c ∈ s.buf sp, c.1 < bufCap s.params sp

/-- A legal state: what every step keeps. -/
structure State.Inv (s : State) : Prop where
  params : s.params.Legal
  flags : s.flagsLegal
  error : s.errorLegal
  table : s.tableLegal
  lehmer : s.lehmerLegal
  widths : s.lehmerWidths
  seen : s.busy = true → s.seen ≤ lastPoint s
  wr0 : s.wr0.legal = true
  wr1 : s.wr1.legal = true
  wr2 : s.wr2.legal = true
  wr3 : s.wr3.legal = true
  keymem : s.memLegal .keymem
  inmem : s.memLegal .inmem
  outmem : s.memLegal .outmem

/-- The error codes with their details that a command can raise, row by row of rule R278 (IllegalCommand apart, which a
well-formed word never raises). BufferTooShort, WidthMismatch and InvalidPadding carry an open detail. -/
def mayRaise (i : Instr) (code : BitVec 4) (info : BitVec 32) : Bool :=
  match i with
  | .sysNop | .sysClear | .md5Init => false
  | .wLd _ _ _ =>
    (code == 1 && info == 1) || (code == 5 && (info == 2 || info == 3 || info == 6)) || code == 3
  | .wSt _ _ _ =>
    (code == 1 && info == 1) || (code == 5 && (info == 2 || info == 3 || info == 6)) || code == 7 || code == 3
  | .wMov _ _ | .wAdd _ _ | .wSub _ _ | .wXor _ _ | .wAddb _ _ | .wRol _ _ | .wRor _ _ | .wRolv _ _ | .wRorv _ _ =>
    (code == 1 && info == 1) || code == 7
  | .lehGen => (code == 1 && info == 3) || (code == 5 && (info == 4 || info == 5))
  | .md5Block _ _ => (code == 5 && (info == 2 || info == 3 || info == 6)) || code == 3
  | .md5Digest | .md5Hex => code == 5 && info == 3
  | .rc5Expand => (code == 1 && (info == 1 || info == 2)) || (code == 5 && (info == 1 || info == 2))
  | .rc5Encblk _ _ | .rc5Decblk _ _ =>
    (code == 1 && (info == 1 || info == 2)) || (code == 5 && (info == 2 || info == 3 || info == 6)) ||
      (code == 6 && info == 0) || code == 3
  | .rc5Encode =>
    (code == 1 && (info == 1 || info == 2 || info == 4)) || (code == 5 && (info == 1 || info == 2 || info == 3))
  | .rc5Decode =>
    (code == 1 && (info == 1 || info == 2)) || (code == 5 && (info == 1 || info == 2 || info == 3)) || code == 3 ||
      code == 2

/-- Byte k of a number, little-endian (rule R12). -/
def byteOf (v k : Nat) : Byte := BitVec.ofNat 8 (v / 2 ^ (8 * k))

/-- `rotl_w(a, n)` in the words of rule R13. -/
def rotlSpec (w a n : Nat) : Nat := if n % w = 0 then a else a * 2 ^ (n % w) % 2 ^ w + a / 2 ^ (w - n % w)

/-- `rotr_w(a, n)` in the words of rule R13. -/
def rotrSpec (w a n : Nat) : Nat := if n % w = 0 then a else a / 2 ^ (n % w) + a % 2 ^ (n % w) * 2 ^ (w - n % w)

/-- The recovered buffer R of RC5_DECODE in a state with the width w (rule R238). -/
def State.recovered (w : Width) (s : State) : List Byte :=
  decodeMsg (decBytes w (expandKey s.params w s.cfgRounds.toNat s.keyBytes) s.cfgRounds.toNat) w.blockBytes s.input

/-- The output of RC5_ENCODE in a state with the width w (rule R236). -/
def State.ciphertext (w : Width) (s : State) : List Byte :=
  encodeMsg (encBytes w (expandKey s.params w s.cfgRounds.toNat s.keyBytes) s.cfgRounds.toNat) w.blockBytes
    (deriveIV s.params s.cfgKlb.toNat w.blockBytes) (pad7 w.blockBytes s.input)

end Sys2Proof.Machine
end

