-- ==== Sys2Proof/Certificates/Slice0/Obligations.lean ====
section
/-! DEFINITION. The statements about the CORE that the provers settle. -/

open Sys2Proof Sys2Proof.Machine

/-- For every well-formed command, with every operand at every value its encoding admits, the decoder reads from the
encoder's word exactly that command. The encoder is the model's own, written from rules R96 and R100.
(rules R90, R91, R92, R93, R94, R97, R100.) -/
def Obligations.DecodeUndoesEncode : Prop :=
  ∀ i : Instr, i.wellFormed = true → decode (encode i) = .ok i

/-- For every 32-bit word: if it decodes to a command, the command is well formed and its encoding is that word. So
every legal word has one command and every command one word, and no bit of a word is dropped.
(rules R97, R100, R102.) -/
def Obligations.EncodeUndoesDecode : Prop :=
  ∀ (c : BitVec 32) (i : Instr), decode c = .ok i → i.wellFormed = true ∧ encode i = c

/-- For every 32-bit word: it decodes exactly when some row of the mask and match table accepts it (with the extra
condition sp not 3); two rows never match the same word; and the row that accepts a word has the opcode of the
command the word decodes to.
(rules R96, R97, R98.) -/
def Obligations.DecoderAgreesWithOpcodeMap : Prop :=
  ∀ c : BitVec 32,
    ((∃ i, decode c = .ok i) ↔ ∃ r ∈ opcodeMap, r.accepts c = true) ∧
      (∀ r ∈ opcodeMap, ∀ q ∈ opcodeMap, c &&& r.mask = r.value → c &&& q.mask = q.value → r = q) ∧
      ∀ i, decode c = .ok i → ∃ r ∈ opcodeMap, r.accepts c = true ∧ fieldOpc r.value = fieldOpc (encode i)

/-- A sanity check on one or two words of each family, written out from the encoding of the spec.
(rules R96, R97, R100.) -/
def Obligations.WrittenWordsDecode : Prop :=
  decode 0x00000001#32 = .ok .sysClear ∧
    decode 0x00021110#32 = .ok (.wLd .wr1 .inmem 2) ∧
    decode 0x00022011#32 = .ok (.wSt .wr0 .outmem 2) ∧
    decode 0x00002013#32 = .ok (.wAdd .wr0 .wr2) ∧
    decode 0x00FF0316#32 = .ok (.wAddb .wr3 255) ∧
    decode 0x00460217#32 = .ok (.wRol .wr2 70) ∧
    decode 0x00000020#32 = .ok .lehGen ∧
    decode 0x00401031#32 = .ok (.md5Block .inmem 64) ∧
    decode 0x00082041#32 = .ok (.rc5Encblk .outmem 8) ∧
    decode 0x00000044#32 = .ok .rc5Decode

/-- While BUSY = 1, when CMD decodes to a command: with an empty schedule the step is exec of the command on the
state itself; with a sequencer move first it is exec on the state with that move taken off the schedule; and the
step after withFetchWord is exec of the decoded word on the state in which that word has just been accepted. The
schedule and withFetchWord are the model's (log 2, log 3).
(rules R261, R262.) -/
def Obligations.StepRunsAcceptedCommand : Prop :=
  ∀ (s : State) (i : Instr) (rest : List Move) (nbits w : Nat),
    (s.busy = true → decode s.cmd = .ok i →
      (s.schedule = [] → step s = exec i s) ∧
      (s.schedule = .core :: rest → step s = exec i { s with schedule := rest })) ∧
    (decode (commandWord nbits w) = .ok i →
      step (s.withFetchWord nbits w) =
        exec i { s with cmd := commandWord nbits w, busy := true, done := false, seen := 0 })

/-- A host write of a value with low word c to CMD: while BUSY = 1 nothing changes; while BUSY = 0 and ERR = 1 every
c but 0x00000001 is discarded and nothing changes; else BUSY is 1, DONE is 0 and CMD keeps c. The sequencer's
next step then raises IllegalCommand(0) if c is illegal, and else runs the command. That CMD keeps the accepted
word (log 4), that acceptance and the run are two moves of a schedule (log 2) and that the model's own mark of
how far the run is known to have come starts at 0 (log 9) are the model's choices.
(rules R260, R261, R274, R283.) -/
def Obligations.CommandIssueFollowsAcceptance : Prop :=
  ∀ (s : State) (v : BitVec 64) (c : BitVec 32), c = v.setWidth 32 →
    (s.busy = true → hostWrite s 0x00 v = s) ∧
    (s.busy = false → s.err = true → c ≠ 0x00000001#32 → hostWrite s 0x00 v = s) ∧
    (s.busy = false → (s.err = false ∨ c = 0x00000001#32) →
      hostWrite s 0x00 v = { s with cmd := c, busy := true, done := false, seen := 0 } ∧
      (s.schedule = [] →
        (∀ i, decode c = .ok i → step (hostWrite s 0x00 v) = exec i (hostWrite s 0x00 v)) ∧
        (∀ e, decode c = .error e → step (hostWrite s 0x00 v) = .next ((hostWrite s 0x00 v).failed 4 0))))

/-- With a host move, a reset or a sequencer move first in the schedule, the step makes that move on the state with
the move taken off; with BUSY = 0 a sequencer move changes nothing else; with nothing scheduled and BUSY = 0
nothing moves; a run has ended exactly when BUSY = 0 and no host move is left in the schedule, whatever
sequencer moves or resets are, and is good exactly when ERR = 0 there too. The schedule is the model's choice
(log 2); so are, in the reset move, that the schedule and the last value read stay and that the draw counter
goes on (log 13), and that the parameters, which are no state, stand in a field that stays (log 1).
(rules R15, R17, R61, R310, R311, R312.) -/
def Obligations.StepMakesScheduledMove : Prop :=
  ∀ (s : State) (rest : List Move) (n a : Nat) (v : BitVec 64) (sp : Buf) (q : Space) (b : Byte),
    (s.schedule = .write n v :: rest → step s = .next (hostWrite { s with schedule := rest } n v)) ∧
    (s.schedule = .read n :: rest → step s = .next (hostRead { s with schedule := rest } n)) ∧
    (s.schedule = .bufWrite sp a b :: rest → step s = hostBufWrite { s with schedule := rest } sp a b) ∧
    (s.schedule = .bufRead q a :: rest → step s = hostBufRead { s with schedule := rest } q a) ∧
    (s.schedule = .reset :: rest →
      step s = .next { State.reset with
        params := s.params, schedule := rest, hostData := s.hostData, draws := s.draws + 1 }) ∧
    (s.schedule = .core :: rest → s.busy = false → step s = .next { s with schedule := rest }) ∧
    (s.schedule = [] → s.busy = false → s.ended = true ∧ step s = .next s ∧ (s.good = true ↔ s.err = false)) ∧
    (s.ended = true ↔ s.busy = false ∧ ∀ m ∈ s.schedule, m = .core ∨ m = .reset) ∧
    (s.good = true ↔ s.ended = true ∧ s.err = false)

/-- Every register number other than the four word registers reads 0 in the reset state, CMD holds 0, the four tags
are none, and the byte spaces, STAB and SEQMEM hold nothing written: their contents are unspecified, and that an
unspecified place is one that is not listed is how the model holds it (log 6, log 14).
(rules R21, R44.) -/
def Obligations.ResetRegistersAreZero : Prop :=
  (∀ n : Nat, n ≠ 0x0A → n ≠ 0x0B → n ≠ 0x0C → n ≠ 0x0D → readReg State.reset n = 0) ∧
    State.reset.cmd = 0 ∧ (∀ r : WReg, State.reset.wr r = .untagged) ∧
    (∀ (sp : Buf) (a : Nat), memGet (State.reset.buf sp) a = none) ∧
    State.reset.stab = [] ∧ State.reset.seqmem = []

/-- With any word accepted in the reset state: SYS_NOP and SYS_CLEAR succeed and change nothing else; MD5_INIT
succeeds and loads the start values; MD5_DIGEST and MD5_HEX succeed with the accumulators and the 16 bytes, or
32 characters, of the digest d41d8cd98f00b204e9800998ecf8427e of the empty message in OUTMEM, OUTLEN 16 or 32,
and change nothing else but the model's draw counter; every word command and every RC5 command raises
ConfigurationError(1); LEH_GEN raises ConfigurationError(3); MD5_BLOCK raises BufferTooShort(off). That OUTMEM
then holds no written byte beyond OUTLEN, and the counter, are the model's (log 6, log 8).
(rules R64, R180, R181, R313.) -/
def Obligations.FirstCommandAfterReset : Prop :=
  ∀ (c : BitVec 32) (ra rb : WReg) (sp : Buf) (x : BitVec 16),
    let s : State := { State.reset with cmd := c, busy := true }
    let acc : Acc := ⟨0xD98C1DD4#32, 0x04B2008F#32, 0x980980E9#32, 0x7E42F8EC#32⟩
    exec .sysNop s = .next s.succeeded ∧
    exec .sysClear s = .next { s with busy := false } ∧
    exec .md5Init s =
      .next { s with md5Acc := ⟨0x67452301#32, 0xefcdab89#32, 0x98badcfe#32, 0x10325476#32⟩ }.succeeded ∧
    exec .md5Digest s =
      .next { s with
        md5Acc := acc, outlen := 16, draws := s.draws + 1
        outmem := memOfBytes 0 [0xd4#8, 0x1d#8, 0x8c#8, 0xd9#8, 0x8f#8, 0x00#8, 0xb2#8, 0x04#8, 0xe9#8, 0x80#8, 0x09#8,
          0x98#8, 0xec#8, 0xf8#8, 0x42#8, 0x7e#8] }.succeeded ∧
    exec .md5Hex s =
      .next { s with
        md5Acc := acc, outlen := 32, draws := s.draws + 1
        outmem := memOfBytes 0 [0x64#8, 0x34#8, 0x31#8, 0x64#8, 0x38#8, 0x63#8, 0x64#8, 0x39#8, 0x38#8, 0x66#8, 0x30#8,
          0x30#8, 0x62#8, 0x32#8, 0x30#8, 0x34#8, 0x65#8, 0x39#8, 0x38#8, 0x30#8, 0x30#8, 0x39#8, 0x39#8, 0x38#8,
          0x65#8, 0x63#8, 0x66#8, 0x38#8, 0x34#8, 0x32#8, 0x37#8, 0x65#8] }.succeeded ∧
    (∀ i ∈ [Instr.wLd ra sp x, .wSt ra sp x, .wMov ra rb, .wAdd ra rb, .wSub ra rb, .wXor ra rb, .wAddb ra x,
        .wRol ra x, .wRor ra x, .wRolv ra rb, .wRorv ra rb, .rc5Expand, .rc5Encblk sp x, .rc5Decblk sp x,
        .rc5Encode, .rc5Decode], exec i s = .next (s.failed 1 1)) ∧
    exec .lehGen s = .next (s.failed 1 3) ∧
    exec (.md5Block sp x) s = .next (s.failed 3 (x.setWidth 32))

/-- The legality predicate that every step keeps holds of the reset state, whose parameters are the defaults (log
1).
(rules R10, R24, R25, R26, R31, R34, R35, R37, R38, R60, R263.) -/
def Obligations.ResetStateIsLegal : Prop :=
  State.reset.Inv

/-- Legal means: the parameters meet the constraints of rule R10; the flags are in a combination of rule R263 (ERR
may still be 1 while an accepted SYS_CLEAR runs, log 10); the error record holds a code 1 to 7 while ERR = 1 and
zeros while ERR = 0; while KVALID = 1 STAB holds 2(r + 1) words of the configured width; the Lehmer inputs and
SEQMEM hold LW-bit numbers; SEQMEM holds LEH_SEQLEN entries, progress is 0 to 100, and a period is recorded only
under PVALID and lies below the length; the mark of how far the running command is known to have come lies
within its run (log 9); word registers hold values below 2^tag; the byte spaces are in canonical form inside
their capacity. Every step of any agent keeps it, and leaves the parameters as they are (log 1).
(rules R10, R24, R25, R26, R31, R32, R34, R35, R37, R38, R60, R263.) -/
def Obligations.StepKeepsLegalStates : Prop :=
  ∀ s t : State, s.Inv → step s = .next t → t.Inv ∧ t.params = s.params

/-- While BUSY = 0 a host read of STATUS returns the word of the status fields and changes nothing else; in that
word bit 0 is BUSY, 1 DONE, 2 ERR, 3 KVALID, 4 PVALID, bits 11:8 are ERRCODE, bits 7:5 and 63:12 read 0; a host
write to STATUS changes nothing; every field is 0 after reset. What a read returns while BUSY = 1 is stated
apart (log 10). The field that keeps the value returned is the model's (log 7).
(rules R21, R24, R61, R263.) -/
def Obligations.StatusReadsItsFields : Prop :=
  ∀ (s : State) (v : BitVec 64),
    (s.busy = false → hostRead s 0x01 = { s with hostData := readReg s 0x01 }) ∧
    (readReg s 0x01).getLsbD 0 = s.busy ∧ (readReg s 0x01).getLsbD 1 = s.done ∧
    (readReg s 0x01).getLsbD 2 = s.err ∧ (readReg s 0x01).getLsbD 3 = s.kvalid ∧
    (readReg s 0x01).getLsbD 4 = s.pvalid ∧ (readReg s 0x01).extractLsb' 5 3 = 0#3 ∧
    (readReg s 0x01).extractLsb' 8 4 = s.errcode ∧ (readReg s 0x01).extractLsb' 12 52 = 0#52 ∧
    hostWrite s 0x01 v = s ∧ hostRead State.reset 0x01 = { State.reset with hostData := 0 } ∧
    readReg State.reset 0x01 = 0

/-- While BUSY = 0: a host read of each register of the map other than STATUS and the word registers returns that
register's value zero extended, CMD and every number outside the map read 0, and nothing but the value returned
changes; a host write of v to a writable register of width n other than CMD and the word registers makes it read
v mod 2^n (n = LW for the Lehmer operands), and every other register but STATUS and the word registers reads as
before; such a write to any of them but CFG_WORDSIZE and CFG_ROUNDS, whose further effect is stated apart,
changes that one field of the whole state and nothing else, so that setting a length register writes no byte; a
host write to a read-only register or to a number outside the map leaves the whole state as it is. A write to
CMD, 0x00, issues a command and is stated apart. The field that keeps the value returned is the model's (log 7).
(rules R21, R23, R25, R26, R34, R35, R43, R74, R324.) -/
def Obligations.RegisterSpaceFollowsTheMap : Prop :=
  ∀ (s : State) (v : BitVec 64) (n : Nat), s.busy = false →
    (∀ p ∈ [(0x00, 0), (0x02, s.errinfo.setWidth 64), (0x03, s.errcmd.setWidth 64), (0x04, s.cfgWordsize.setWidth 64),
        (0x05, s.cfgRounds.setWidth 64), (0x06, s.cfgKlb.setWidth 64), (0x07, s.keylen.setWidth 64),
        (0x08, s.inlen.setWidth 64), (0x09, s.outlen.setWidth 64), (0x10, s.lehA), (0x11, s.lehC), (0x12, s.lehM),
        (0x13, s.lehX0), (0x14, s.lehCount.setWidth 64), (0x15, s.lehSeqlen.setWidth 64),
        (0x16, s.lehPeriod.setWidth 64), (0x17, s.lehFirstocc.setWidth 64), (0x18, s.lehProgress.setWidth 64),
        (0x20, s.md5Acc.a.setWidth 64), (0x21, s.md5Acc.b.setWidth 64), (0x22, s.md5Acc.c.setWidth 64),
        (0x23, s.md5Acc.d.setWidth 64)], hostRead s p.1 = { s with hostData := p.2 }) ∧
    (n ∉ [0x00, 0x01, 0x02, 0x03, 0x04, 0x05, 0x06, 0x07, 0x08, 0x09, 0x0A, 0x0B, 0x0C, 0x0D, 0x10, 0x11, 0x12, 0x13,
        0x14, 0x15, 0x16, 0x17, 0x18, 0x20, 0x21, 0x22, 0x23] → hostRead s n = { s with hostData := 0 }) ∧
    (∀ p ∈ [(0x04, 8), (0x05, 8), (0x06, 16), (0x07, 16), (0x08, 32), (0x09, 32), (0x10, s.params.lw),
        (0x11, s.params.lw), (0x12, s.params.lw), (0x13, s.params.lw), (0x14, 32), (0x20, 32), (0x21, 32), (0x22, 32),
        (0x23, 32)],
      (hostRead (hostWrite s p.1 v) p.1).hostData = BitVec.ofNat 64 (v.toNat % 2 ^ p.2) ∧
      (n ∉ [p.1, 0x01, 0x0A, 0x0B, 0x0C, 0x0D] →
        (hostRead (hostWrite s p.1 v) n).hostData = (hostRead s n).hostData)) ∧
    (let x := BitVec.ofNat 64 (v.toNat % 2 ^ s.params.lw);
      ∀ p ∈ [(0x06, { s with cfgKlb := v.setWidth 16 }), (0x07, { s with keylen := v.setWidth 16 }),
        (0x08, { s with inlen := v.setWidth 32 }), (0x09, { s with outlen := v.setWidth 32 }),
        (0x10, { s with lehA := x }), (0x11, { s with lehC := x }), (0x12, { s with lehM := x }),
        (0x13, { s with lehX0 := x }), (0x14, { s with lehCount := v.setWidth 32 }),
        (0x20, { s with md5Acc := { s.md5Acc with a := v.setWidth 32 } }),
        (0x21, { s with md5Acc := { s.md5Acc with b := v.setWidth 32 } }),
        (0x22, { s with md5Acc := { s.md5Acc with c := v.setWidth 32 } }),
        (0x23, { s with md5Acc := { s.md5Acc with d := v.setWidth 32 } })], hostWrite s p.1 v = p.2) ∧
    (n ∉ [0x00, 0x04, 0x05, 0x06, 0x07, 0x08, 0x09, 0x0A, 0x0B, 0x0C, 0x0D, 0x10, 0x11, 0x12, 0x13, 0x14, 0x20, 0x21,
        0x22, 0x23] → hostWrite s n v = s)

/-- While BUSY = 0, a host write to WRn under a supported CFG_WORDSIZE w sets the tag w and the value v mod 2^w and
changes nothing else; the host reads that value back; under an unsupported CFG_WORDSIZE the tag becomes none; a
host read of any tagged register returns its value, and of an untagged one the free value (U1, log 5), and
changes nothing but the value returned, whose field is the model's (log 7).
(rules R21, R31, R61.) -/
def Obligations.WordRegisterHostAccess : Prop :=
  ∀ (s : State) (v : BitVec 64) (r : WReg), s.busy = false →
    (∀ w, s.configured w →
      let t := s.setWr r (.tagged w (BitVec.ofNat 64 (v.toNat % 2 ^ w.bits)))
      hostWrite s (0x0A + r.number) v = t ∧
      hostRead t (0x0A + r.number) = { t with hostData := BitVec.ofNat 64 (v.toNat % 2 ^ w.bits) }) ∧
    (s.unsupported →
      let t := { s.setWr r .untagged with draws := s.draws + 1 }
      hostWrite s (0x0A + r.number) v = t ∧
      hostRead t (0x0A + r.number) = { t with hostData := Config.free (s.draws + 1) (.word r) }) ∧
    (∀ w x, s.wr r = .tagged w x → hostRead s (0x0A + r.number) = { s with hostData := x }) ∧
    (s.wr r = .untagged → hostRead s (0x0A + r.number) = { s with hostData := Config.free s.draws (.word r) })

/-- While BUSY = 0, a write of any value to 0x04 or 0x05 stores its low 8 bits and clears KVALID, and nothing else
changes but the model's draw counter (log 6); a write to any register but CMD, 0x04 and 0x05, and a buffer write
into KEYMEM, keep KVALID.
(rules R27, R28, R321.) -/
def Obligations.ConfigurationWriteClearsKvalid : Prop :=
  ∀ (s : State) (v : BitVec 64) (n a : Nat) (b : Byte), s.busy = false →
    hostWrite s 0x04 v = { s with cfgWordsize := v.setWidth 8, kvalid := false, draws := s.draws + 1 } ∧
    hostWrite s 0x05 v = { s with cfgRounds := v.setWidth 8, kvalid := false, draws := s.draws + 1 } ∧
    (n ≠ 0x04 → n ≠ 0x05 → (hostWrite s n v).kvalid = s.kvalid) ∧
    ∀ t, hostBufWrite s .keymem a b = .next t → t.kvalid = s.kvalid

/-- While BUSY = 1: a register write and a buffer write inside its space leave the whole state as it is; a read of
any register but STATUS (0x01) and LEH_PROGRESS (0x18), and a buffer read inside its space, return the free
value and change nothing else but the draw counter; the two readable registers change nothing but the value
returned, the draw counter and the mark of how far the run is known to have come; a buffer move outside its
space stops with the fault outsideSpace. The free value and the counter (log 6, log 8), the field of the value
returned (log 7), the mark (log 9) and the fault (log 12) are the model's.
(rules R61, R320.) -/
def Obligations.BusyTurnsHostMovesAway : Prop :=
  ∀ (s : State) (n a : Nat) (v : BitVec 64) (b : Byte) (sp : Buf) (q : Space), s.busy = true →
    hostWrite s n v = s ∧
    (a < spaceSize s.params (.bytes sp) → hostBufWrite s sp a b = .next s) ∧
    (n ≠ 0x01 → n ≠ 0x18 →
      hostRead s n = { s with hostData := Config.free s.draws .busyRead, draws := s.draws + 1 }) ∧
    (a < spaceSize s.params q →
      hostBufRead s q a = .next { s with hostData := Config.free s.draws .busyRead, draws := s.draws + 1 }) ∧
    (∀ t, (t = hostRead s 0x01 ∨ t = hostRead s 0x18) →
      t = { s with hostData := t.hostData, draws := t.draws, seen := t.seen }) ∧
    (spaceSize s.params (.bytes sp) ≤ a → hostBufWrite s sp a b = .fault (.outsideSpace (.bytes sp) a)) ∧
    (spaceSize s.params q ≤ a → hostBufRead s q a = .fault (.outsideSpace q a))

/-- From every legal state, the value a host read of STATUS returns has (BUSY, DONE, ERR) = (0,0,0), (1,0,0),
(0,1,0) or (0,0,1), and (1,0,0) exactly while BUSY = 1 (that a running SYS_CLEAR shows ERR = 0 is read from rule
R263, log 10). While BUSY = 1 it shows KVALID and PVALID as at a point of the run not before the last one seen,
which it marks as seen (log 9): KVALID never goes from 1 to 0 in a run; PVALID is as before the command at point
0, 0 at point 1 of a LEH_GEN that generates, and never goes from 1 to 0 after that; at the last point both are
what the command leaves.
(rules R40, R155, R263.) -/
def Obligations.StatusCombinationsAreTheFour : Prop :=
  ∀ s : State, s.Inv →
    let t := hostRead s 0x01
    let v := t.hostData
    ((v.getLsbD 0, v.getLsbD 1, v.getLsbD 2) ∈
        [(false, false, false), (true, false, false), (false, true, false), (false, false, true)] ∧
      v.getLsbD 0 = s.busy) ∧
    (s.busy = true →
      s.seen ≤ t.seen ∧ t.seen ≤ lastPoint s ∧ v.getLsbD 3 = kvalidAt s t.seen ∧ v.getLsbD 4 = pvalidAt s t.seen) ∧
    (kvalidAt s 0 = s.kvalid ∧ ∀ j k, j ≤ k → kvalidAt s j = true → kvalidAt s k = true) ∧
    (pvalidAt s 0 = s.pvalid ∧ (generates s = true → pvalidAt s 1 = false) ∧
      ∀ j k, 1 ≤ j → j ≤ k → pvalidAt s j = true → pvalidAt s k = true) ∧
    ∀ i u, decode s.cmd = .ok i → exec i s = .next u →
      kvalidAt s (lastPoint s) = u.kvalid ∧ pvalidAt s (lastPoint s) = u.pvalid

/-- While a LEH_GEN that passed its checks runs: a read returns floor(100·e/n) for the e elements, 0 to n, recorded
at a point of the run not before the last one seen, so at most 100, and marks that point as seen; a second read,
a read of STATUS between the two or not, returns at least what the first did. Which point is open (U8, log 11);
the mark is the model's (log 9).
(rules R155, R157.) -/
def Obligations.ProgressReadsDoNotDecrease : Prop :=
  ∀ s : State, s.busy = true → generates s = true → s.seen ≤ lastPoint s →
    let t := hostRead s 0x18
    (s.seen ≤ t.seen ∧ 1 ≤ t.seen ∧ t.seen ≤ 2 * s.lehCount.toNat + 1 ∧
      t.hostData.toNat = 100 * ((t.seen - 1) / 2) / s.lehCount.toNat) ∧
    t.hostData.toNat ≤ 100 ∧ t.hostData.toNat ≤ (hostRead t 0x18).hostData.toNat ∧
    t.hostData.toNat ≤ (hostRead (hostRead t 0x01) 0x18).hostData.toNat

/-- While BUSY = 0: a write inside a byte space changes only that byte of that space, no length register and not
KVALID, and a read there returns the byte; a read inside a byte space returns the written byte, or the free byte
where nothing has been written; an entry of STAB below 2(r + 1) under KVALID = 1 and an entry of SEQMEM below
LEH_SEQLEN are returned zero extended; a STAB entry while KVALID = 0 or from 2(r + 1) to 511, and a SEQMEM entry
from LEH_SEQLEN to SEQ_MAX - 1, return the free value (log 6). At or beyond the size of its space a move stops
with the fault outsideSpace, whatever BUSY is (that a move without a meaning in R61 is a fault is the model's
choice, log 12).
(rules R37, R38, R60, R61, R74.) -/
def Obligations.BufferMovesReachOneUnit : Prop :=
  ∀ (s : State) (sp : Buf) (q : Space) (a : Nat) (b : Byte),
    (s.busy = false →
      (a < spaceSize s.params (.bytes sp) →
        (∃ t, hostBufWrite s sp a b = .next t ∧ t = s.setBuf sp (t.buf sp) ∧
          (∀ x, memGet (t.buf sp) x = if x = a then some b else memGet (s.buf sp) x) ∧
          hostBufRead t (.bytes sp) a = .next { t with hostData := b.setWidth 64 }) ∧
        (∀ x, memGet (s.buf sp) a = some x →
          hostBufRead s (.bytes sp) a = .next { s with hostData := x.setWidth 64 }) ∧
        (memGet (s.buf sp) a = none →
          hostBufRead s (.bytes sp) a =
            .next { s with hostData := ((Config.free s.draws (.byte sp a)).setWidth 8).setWidth 64 })) ∧
      (∀ v, s.kvalid = true → a < 2 * (s.cfgRounds.toNat + 1) → s.stab[a]? = some v →
        hostBufRead s .stab a = .next { s with hostData := v }) ∧
      ((s.kvalid = false ∨ 2 * (s.cfgRounds.toNat + 1) ≤ a) → a < 512 →
        hostBufRead s .stab a = .next { s with hostData := Config.free s.draws (.stab a) }) ∧
      (∀ x, a < s.lehSeqlen.toNat → a < s.params.seqMax → s.seqmem[a]? = some x →
        hostBufRead s .seqmem a = .next { s with hostData := x }) ∧
      (s.lehSeqlen.toNat ≤ a → a < s.params.seqMax →
        hostBufRead s .seqmem a =
          .next { s with
            hostData := BitVec.ofNat 64 ((Config.free s.draws (.seq a)).toNat % 2 ^ s.params.lw) })) ∧
    (spaceSize s.params q ≤ a → hostBufRead s q a = .fault (.outsideSpace q a)) ∧
    (spaceSize s.params (.bytes sp) ≤ a → hostBufWrite s sp a b = .fault (.outsideSpace (.bytes sp) a))

/-- For each of the seven errors: ERRCODE is its code 1 to 7, ERRINFO the detail, ERRCMD the accepted word, ERR = 1,
DONE = BUSY = 0; every other field, KVALID and PVALID among them, is as before; and a command whose check raises
the error ends with that entry, whatever would have run after it.
(rule R280.) -/
def Obligations.ErrorEntryRecordsTheError : Prop :=
  ∀ (s : State) (info : BitVec 32),
    ∀ p ∈ [(Err.configuration, 1#4), (.invalidPadding, 2#4), (.bufferTooShort, 3#4), (.illegalCommand, 4#4),
        (.length, 5#4), (.keyTableInvalid, 6#4), (.widthMismatch, 7#4)],
      s.errorEntry ⟨p.1, info⟩ =
        { s with errcode := p.2, errinfo := info, errcmd := s.cmd, err := true, done := false, busy := false } ∧
      ∀ rest : Unit → Except Trap State,
        finish ((.error ⟨p.1, info⟩ : Except Trap Unit) >>= rest) s = .next (s.errorEntry ⟨p.1, info⟩)

/-- For every command and every state with ERR = 0: if it ends with ERR = 1 and a code other than 2, the end state
is the start state with only the fields of error entry written; with code 2 the command is RC5_DECODE, the table
of the present key stands in STAB with KVALID = 1, OUTLEN is 0, OUTMEM holds nothing specified, and nothing else
has changed but the model's draw counter (log 8); that OUTMEM then lists no byte is how the model holds
unspecified contents (log 6).
(rule R281.) -/
def Obligations.FailedCommandChangesNothingElse : Prop :=
  ∀ (i : Instr) (s t : State), s.err = false → exec i s = .next t → t.err = true →
    (t.errcode ≠ 2 → t = s.failed t.errcode t.errinfo) ∧
    (t.errcode = 2 → i = .rc5Decode ∧
      ∃ w, s.configured w ∧
        t = State.failed 2 t.errinfo
          { s with
            stab := (expandKey s.params w s.cfgRounds.toNat s.keyBytes).map (·.setWidth 64), kvalid := true
            outlen := 0, outmem := [], draws := t.draws })

/-- For every command and every state with ERR = 0: if it ends with ERR = 1, the code and detail are ones that rule
R278 lists for the command (the detail is left open for BufferTooShort, WidthMismatch and InvalidPadding), and
ERRCMD is the accepted word.
(rules R270, R271, R275, R278.) -/
def Obligations.CommandsRaiseOnlyTheirErrors : Prop :=
  ∀ (i : Instr) (s t : State), s.err = false → exec i s = .next t → t.err = true →
    mayRaise i t.errcode t.errinfo = true ∧ t.errcmd = s.cmd

/-- From every legal state with ERR = 1, every step that is not the reset move of the schedule (log 2) keeps ERR =
1, ERRCODE, ERRINFO and ERRCMD, unless an accepted SYS_CLEAR runs in that step, which ends with ERR, ERRCODE,
ERRINFO, ERRCMD and DONE at 0.
(rules R282, R283.) -/
def Obligations.ErrorStaysUntilClearedOrReset : Prop :=
  ∀ s t : State, s.Inv → s.err = true → step s = .next t → (∀ rest, s.schedule ≠ .reset :: rest) →
    (t.err = true ∧ t.errcode = s.errcode ∧ t.errinfo = s.errinfo ∧ t.errcmd = s.errcmd) ∨
    (s.busy = true ∧ s.cmd = 0x00000001#32 ∧
      t.err = false ∧ t.errcode = 0 ∧ t.errinfo = 0 ∧ t.errcmd = 0 ∧ t.done = false)

/-- Under an unsupported CFG_WORDSIZE every word command, loads and stores too, raises ConfigurationError(1). Under
a supported width w the two-register commands raise WidthMismatch(ra) when ra is not tagged w, and
WidthMismatch(rb) when ra is and rb is not; W_MOV checks rb only; the immediate commands check ra.
(rules R120, R121, R277, R279.) -/
def Obligations.WordCommandsCheckWidthThenTags : Prop :=
  ∀ (s : State) (ra rb : WReg) (sp : Buf) (x : BitVec 16),
    (s.unsupported →
      ∀ i ∈ [Instr.wLd ra sp x, .wSt ra sp x, .wMov ra rb, .wAdd ra rb, .wSub ra rb, .wXor ra rb, .wAddb ra x,
        .wRol ra x, .wRor ra x, .wRolv ra rb, .wRorv ra rb], exec i s = .next (s.failed 1 1)) ∧
    (∀ w, s.configured w →
      (s.mistagged w ra →
        ∀ i ∈ [Instr.wAdd ra rb, .wSub ra rb, .wXor ra rb, .wRolv ra rb, .wRorv ra rb, .wAddb ra x, .wRol ra x,
          .wRor ra x], exec i s = .next (s.failed 7 (BitVec.ofNat 32 ra.number))) ∧
      (¬ s.mistagged w ra → s.mistagged w rb →
        ∀ i ∈ [Instr.wAdd ra rb, .wSub ra rb, .wXor ra rb, .wRolv ra rb, .wRorv ra rb],
          exec i s = .next (s.failed 7 (BitVec.ofNat 32 rb.number))) ∧
      (s.mistagged w rb → exec (.wMov ra rb) s = .next (s.failed 7 (BitVec.ofNat 32 rb.number))))

/-- Under a supported width: a length register beyond its capacity raises LengthError with sub-cause 2, 3 or 6 for
KEYMEM, INMEM, OUTMEM; then W_ST with a source register not tagged w raises WidthMismatch(ra); then an access
past the length raises BufferTooShort(off). In each case nothing else changes.
(rules R69, R70, R123, R124, R279.) -/
def Obligations.LoadsAndStoresCheckInOrder : Prop :=
  ∀ (w : Width) (s : State) (ra : WReg) (sp : Buf) (off : BitVec 16), s.configured w →
    let cause : BitVec 32 := match sp with | .keymem => 2 | .inmem => 3 | .outmem => 6
    (bufCap s.params sp < s.blen sp →
      exec (.wLd ra sp off) s = .next (s.failed 5 cause) ∧ exec (.wSt ra sp off) s = .next (s.failed 5 cause)) ∧
    (s.blen sp ≤ bufCap s.params sp → s.mistagged w ra →
      exec (.wSt ra sp off) s = .next (s.failed 7 (BitVec.ofNat 32 ra.number))) ∧
    (s.blen sp ≤ bufCap s.params sp → s.blen sp < off.toNat + w.bytes →
      exec (.wLd ra sp off) s = .next (s.failed 3 (off.setWidth 32)) ∧
      (¬ s.mistagged w ra → exec (.wSt ra sp off) s = .next (s.failed 3 (off.setWidth 32))))

/-- Each check fails only when all earlier ones pass: width (1,1), rounds (1,2), for RC5_ENCODE the IV length (1,4),
empty key (5,1), key beyond KEY_MAX (5,2), for the message commands INLEN beyond BUF_MAX (5,3), for RC5_DECODE a
ciphertext shorter than a block (3,0) or ragged (3, the offset of the block that cannot be read whole). Every
failure changes nothing else.
(rules R200, R204, R232, R236, R238, R239, R279.) -/
def Obligations.Rc5CommandsCheckConfigurationAndKey : Prop :=
  ∀ s : State,
    (s.unsupported → ∀ i ∈ [Instr.rc5Expand, .rc5Encode, .rc5Decode], exec i s = .next (s.failed 1 1)) ∧
    ∀ w, s.configured w →
      (s.cfgRounds = 0 → ∀ i ∈ [Instr.rc5Expand, .rc5Encode, .rc5Decode], exec i s = .next (s.failed 1 2)) ∧
      (s.cfgRounds ≠ 0 →
        (s.params.ivValueBytes * s.cfgKlb.toNat < 2 * w.bytes → exec .rc5Encode s = .next (s.failed 1 4)) ∧
        ∀ i ∈ [Instr.rc5Expand, .rc5Encode, .rc5Decode], (i = .rc5Encode → 2 * w.bytes ≤ s.params.ivValueBytes * s.cfgKlb.toNat) →
          (s.keylen.toNat = 0 → exec i s = .next (s.failed 5 1)) ∧
          (s.params.keyMax < s.keylen.toNat → exec i s = .next (s.failed 5 2)) ∧
          (s.keylen.toNat ≠ 0 → s.keylen.toNat ≤ s.params.keyMax → i ≠ .rc5Expand →
            (s.params.bufMax < s.inlen.toNat → exec i s = .next (s.failed 5 3)) ∧
            (s.inlen.toNat ≤ s.params.bufMax → i = .rc5Decode →
              (s.inlen.toNat < 2 * w.bytes → exec i s = .next (s.failed 3 0)) ∧
              (2 * w.bytes ≤ s.inlen.toNat → s.inlen.toNat % (2 * w.bytes) ≠ 0 →
                exec i s = .next (s.failed 3 (BitVec.ofNat 32 (s.inlen.toNat / (2 * w.bytes) * (2 * w.bytes))))))))

/-- For both commands: unsupported width (1,1); rounds 0 (1,2); length beyond capacity (5, with 2, 3 or 6); KVALID =
0 (6,0); block past the length (3, off). Each only when the earlier checks pass; every failure changes nothing
else.
(rules R212, R213, R276, R279.) -/
def Obligations.BlockCommandsCheckInOrder : Prop :=
  ∀ (s : State) (sp : Buf) (off : BitVec 16),
    let cause : BitVec 32 := match sp with | .keymem => 2 | .inmem => 3 | .outmem => 6
    ∀ i ∈ [Instr.rc5Encblk sp off, .rc5Decblk sp off],
      (s.unsupported → exec i s = .next (s.failed 1 1)) ∧
      ∀ w, s.configured w →
        (s.cfgRounds = 0 → exec i s = .next (s.failed 1 2)) ∧
        (s.cfgRounds ≠ 0 →
          (bufCap s.params sp < s.blen sp → exec i s = .next (s.failed 5 cause)) ∧
          (s.blen sp ≤ bufCap s.params sp →
            (s.kvalid = false → exec i s = .next (s.failed 6 0)) ∧
            (s.kvalid = true → s.blen sp < off.toNat + 2 * w.bytes →
              exec i s = .next (s.failed 3 (off.setWidth 32)))))

/-- LEH_M = 0 raises ConfigurationError(3); else LEH_COUNT = 0 raises LengthError(4); else LEH_COUNT above SEQ_MAX
raises LengthError(5). MD5_DIGEST and MD5_HEX raise LengthError(3) when INLEN exceeds BUF_MAX; MD5_BLOCK raises
LengthError with 2, 3 or 6 when the length exceeds the capacity and else BufferTooShort(off) when 64 bytes at
off do not fit. Every failure changes nothing else.
(rules R69, R70, R151, R155, R179, R180, R181, R275, R279.) -/
def Obligations.LehmerAndMd5CheckInOrder : Prop :=
  ∀ (s : State) (sp : Buf) (off : BitVec 16),
    let cause : BitVec 32 := match sp with | .keymem => 2 | .inmem => 3 | .outmem => 6
    (s.lehM = 0 → exec .lehGen s = .next (s.failed 1 3)) ∧
    (s.lehM ≠ 0 → s.lehCount = 0 → exec .lehGen s = .next (s.failed 5 4)) ∧
    (s.lehM ≠ 0 → s.params.seqMax < s.lehCount.toNat → exec .lehGen s = .next (s.failed 5 5)) ∧
    (s.params.bufMax < s.inlen.toNat →
      exec .md5Digest s = .next (s.failed 5 3) ∧ exec .md5Hex s = .next (s.failed 5 3)) ∧
    (bufCap s.params sp < s.blen sp → exec (.md5Block sp off) s = .next (s.failed 5 cause)) ∧
    (s.blen sp ≤ bufCap s.params sp → s.blen sp < off.toNat + 64 →
      exec (.md5Block sp off) s = .next (s.failed 3 (off.setWidth 32)))

/-- For every command that gives a next state: a byte space changes only under W_ST, RC5_ENCBLK or RC5_DECBLK with
that space selected, or OUTMEM under MD5_DIGEST, MD5_HEX, RC5_ENCODE, RC5_DECODE; STAB only under RC5_EXPAND,
RC5_ENCODE, RC5_DECODE; SEQMEM only under LEH_GEN; OUTLEN only under the four whole-buffer commands; KEYLEN and
INLEN never.
(rules R63, R64.) -/
def Obligations.CommandsWriteOnlyTheirSpaces : Prop :=
  ∀ (i : Instr) (s t : State), exec i s = .next t →
    (∀ sp : Buf, t.buf sp ≠ s.buf sp →
      (∃ ra off, i = .wSt ra sp off) ∨ (∃ off, i = .rc5Encblk sp off) ∨ (∃ off, i = .rc5Decblk sp off) ∨
        (sp = .outmem ∧ i ∈ [Instr.md5Digest, .md5Hex, .rc5Encode, .rc5Decode])) ∧
    (t.stab ≠ s.stab → i ∈ [Instr.rc5Expand, .rc5Encode, .rc5Decode]) ∧
    (t.seqmem ≠ s.seqmem → i = .lehGen) ∧
    (t.outlen ≠ s.outlen → i ∈ [Instr.md5Digest, .md5Hex, .rc5Encode, .rc5Decode]) ∧
    t.keylen = s.keylen ∧ t.inlen = s.inlen

/-- For every command that gives a next state: CMD, the configuration registers and the Lehmer inputs never change;
a word register changes only as the ra of a word command other than W_ST; the MD5 accumulators only under the
four MD5 commands; the Lehmer results and PVALID only under LEH_GEN; KVALID is never cleared and is set only by
RC5_EXPAND, RC5_ENCODE, RC5_DECODE; BUSY ends at 0.
(rules R40, R43, R122.) -/
def Obligations.CommandsWriteOnlyTheirRegisters : Prop :=
  ∀ (i : Instr) (s t : State), exec i s = .next t →
    (t.cmd, t.cfgWordsize, t.cfgRounds, t.cfgKlb) = (s.cmd, s.cfgWordsize, s.cfgRounds, s.cfgKlb) ∧
    (t.lehA, t.lehC, t.lehM, t.lehX0, t.lehCount) = (s.lehA, s.lehC, s.lehM, s.lehX0, s.lehCount) ∧
    (∀ r : WReg, t.wr r ≠ s.wr r →
      (∃ sp off, i = .wLd r sp off) ∨
        ∃ rb n, i ∈ [Instr.wMov r rb, .wAdd r rb, .wSub r rb, .wXor r rb, .wAddb r n, .wRol r n, .wRor r n,
          .wRolv r rb, .wRorv r rb]) ∧
    (t.md5Acc ≠ s.md5Acc → i ∈ [Instr.md5Init, .md5Digest, .md5Hex] ∨ ∃ sp off, i = .md5Block sp off) ∧
    (i ≠ .lehGen →
      (t.lehSeqlen, t.lehPeriod, t.lehFirstocc, t.lehProgress, t.pvalid) =
        (s.lehSeqlen, s.lehPeriod, s.lehFirstocc, s.lehProgress, s.pvalid)) ∧
    (s.kvalid = true → t.kvalid = true) ∧
    (s.kvalid = false → t.kvalid = true → i ∈ [Instr.rc5Expand, .rc5Encode, .rc5Decode]) ∧
    t.busy = false

/-- SYS_NOP ends with BUSY = 0 and DONE = 1 and every other field as it was; while ERR = 1 a write of its word
changes nothing; issued after reset it leaves STATUS = 0x002.
(rule R264.) -/
def Obligations.NopOnlySetsDone : Prop :=
  ∀ s : State,
    exec .sysNop s = .next { s with busy := false, done := true } ∧
    (s.err = true → hostWrite s 0x00 0x00000000#64 = s) ∧
    (∀ t, exec .sysNop (hostWrite State.reset 0x00 0x00000000#64) = .next t → readReg t 0x01 = 0x002#64)

/-- SYS_CLEAR ends with ERR = 0, ERRCODE = 0, DONE = 0, ERRINFO = 0, ERRCMD = 0 and BUSY = 0, every other field as
it was; it is accepted while ERR = 1 and BUSY = 0, where every other word is discarded; from STATUS = 0x20C it
gives STATUS = 0x008.
(rule R265.) -/
def Obligations.ClearAcknowledgesTheError : Prop :=
  ∀ (s : State) (v : BitVec 64),
    exec .sysClear s = .next { s with
      err := false, errcode := 0, done := false, errinfo := 0, errcmd := 0, busy := false } ∧
    (s.busy = false → s.err = true →
      (hostWrite s 0x00 0x00000001#64).busy = true ∧ (v.setWidth 32 ≠ 0x00000001#32 → hostWrite s 0x00 v = s)) ∧
    (readReg s 0x01 = 0x20C#64 → ∀ t, exec .sysClear s = .next t → readReg t 0x01 = 0x008#64)

/-- For every width w in {16, 32, 64} and all w-bit a, b and natural n: add is (a + b) mod 2^w, sub is (a + 2^w − b)
mod 2^w, xor is bitwise, rotl and rotr by n are the formulas with k = n mod w, the identity for k = 0.
(rule R13.) -/
def Obligations.WordArithmeticFollowsTheNaturals : Prop :=
  ∀ (w : Width) (a b : Word w) (n : Nat),
    (addW a b).toNat = (a.toNat + b.toNat) % 2 ^ w.bits ∧
    (subW a b).toNat = (a.toNat + 2 ^ w.bits - b.toNat) % 2 ^ w.bits ∧
    (xorW a b).toNat = a.toNat ^^^ b.toNat ∧
    (rotlW a n).toNat = rotlSpec w.bits a.toNat n ∧
    (rotrW a n).toNat = rotrSpec w.bits a.toNat n

/-- For all w-bit a, b and natural n: sub(add(a,b),b) = a; add(sub(a,b),b) = a; xor(xor(a,b),b) = a;
rotr(rotl(a,n),n) = a; rotl(rotr(a,n),n) = a; rotl(a,n) = rotl(a, n mod w); rotl(a,0) = a; rotr(a,n) = rotl(a, w
− (n mod w)).
(rule R134.) -/
def Obligations.WordOperationsInvertEachOther : Prop :=
  ∀ (w : Width) (a b : Word w) (n : Nat),
    subW (addW a b) b = a ∧ addW (subW a b) b = a ∧ xorW (xorW a b) b = a ∧
    rotrW (rotlW a n) n = a ∧ rotlW (rotrW a n) n = a ∧ rotlW a n = rotlW a (n % w.bits) ∧ rotlW a 0 = a ∧
    rotrW a n = rotlW a (w.bits - n % w.bits)

/-- With ra and rb tagged with the configured width w and holding a and b (ra = rb included): each command
completes, WR[ra] has tag w and the value of rule R13's formula on a and b, both read before the write, and
every other field is as it was.
(rules R13, R122, R126, R127, R128, R132, R133.) -/
def Obligations.RegisterPairCommandsComplete : Prop :=
  ∀ (w : Width) (s : State) (ra rb : WReg) (a b : Word w),
    s.configured w → s.holds w ra a → s.holds w rb b →
    ∀ p ∈ [(Instr.wAdd ra rb, (a.toNat + b.toNat) % 2 ^ w.bits),
        (.wSub ra rb, (a.toNat + 2 ^ w.bits - b.toNat) % 2 ^ w.bits), (.wXor ra rb, a.toNat ^^^ b.toNat),
        (.wRolv ra rb, rotlSpec w.bits a.toNat b.toNat), (.wRorv ra rb, rotrSpec w.bits a.toNat b.toNat)],
      exec p.1 s =
        .next { s.setWr ra (.tagged w (BitVec.ofNat 64 p.2)) with busy := false, done := true }

/-- With ra tagged with the configured width w and holding a, for every immediate n that the command word can hold
(0 to 65535 for the rotates, 0 to 255 for W_ADDB: the well-formed terms): the command completes, WR[ra] has tag
w and the value (a + n) mod 2^w, a rotated left, or a rotated right by n mod w, BUSY = 0, DONE = 1, and every
other field is as it was.
(rules R13, R95, R122, R129, R130, R131.) -/
def Obligations.ImmediateCommandsComplete : Prop :=
  ∀ (w : Width) (s : State) (ra : WReg) (n : BitVec 16) (a : Word w),
    s.configured w → s.holds w ra a →
    ∀ p ∈ [(Instr.wAddb ra n, (a.toNat + n.toNat) % 2 ^ w.bits), (.wRol ra n, rotlSpec w.bits a.toNat n.toNat),
        (.wRor ra n, rotrSpec w.bits a.toNat n.toNat)],
      p.1.wellFormed = true →
      exec p.1 s =
        .next { s.setWr ra (.tagged w (BitVec.ofNat 64 p.2)) with busy := false, done := true }

/-- With rb tagged with the configured width: W_MOV completes, WR[ra] equals WR[rb], the tag and value ra had are
not looked at, and every other field is as it was; for ra = rb no register changes.
(rules R122, R125.) -/
def Obligations.MoveCopiesTheWord : Prop :=
  ∀ (w : Width) (s : State) (ra rb : WReg) (v : Word w), s.configured w → s.holds w rb v →
    exec (.wMov ra rb) s = .next { s.setWr ra (s.wr rb) with busy := false, done := true }

/-- With a supported width, the length within the capacity and off + u within the length: W_LD completes, WR[ra] has
the tag w and a w-bit value whose byte k is the byte at off + k, whatever ra held; every other field and every
byte of memory is as it was.
(rules R65, R68, R70, R71, R123.) -/
def Obligations.LoadReadsLittleEndian : Prop :=
  ∀ (w : Width) (s : State) (ra : WReg) (sp : Buf) (off : BitVec 16),
    s.configured w → s.blen sp ≤ bufCap s.params sp → off.toNat + w.bytes ≤ s.blen sp →
    ∃ v : Word w,
      exec (.wLd ra sp off) s =
        .next { s.setWr ra (.tagged w (v.setWidth 64)) with busy := false, done := true } ∧
      ∀ k, k < w.bytes → byteOf v.toNat k = s.byteAt sp (off.toNat + k)

/-- With a supported width, ra tagged w and holding v, the length within the capacity and off + u within the length:
W_ST completes; byte off + k of the space is byte k of v for k < u; every other byte of that space, the other
spaces and every other field but BUSY and DONE are as they were.
(rules R65, R68, R70, R71, R124.) -/
def Obligations.StoreWritesLittleEndian : Prop :=
  ∀ (w : Width) (s : State) (ra : WReg) (sp : Buf) (off : BitVec 16) (v : Word w),
    s.configured w → s.holds w ra v → s.blen sp ≤ bufCap s.params sp → off.toNat + w.bytes ≤ s.blen sp →
    ∃ t, exec (.wSt ra sp off) s = .next t ∧
      t = { s.setBuf sp (t.buf sp) with busy := false, done := true } ∧
      ∀ a, memGet (t.buf sp) a =
        if off.toNat ≤ a ∧ a < off.toNat + w.bytes then some (byteOf v.toNat (a - off.toNat))
        else memGet (s.buf sp) a

/-- With LEH_M not 0 and LEH_COUNT from 1 to SEQ_MAX: LEH_GEN completes; SEQMEM has LEH_COUNT entries, entry 0 is
LEH_X0 and every next entry is (A·x + C) mod M of the one before, over the naturals; LEH_SEQLEN = LEH_COUNT,
LEH_PROGRESS = 100; only SEQMEM, the Lehmer results, PVALID, BUSY, DONE and the model's draw counter (log 8)
change.
(rules R38, R150, R152, R155, R157.) -/
def Obligations.LehmerProducesTheSequence : Prop :=
  ∀ s : State, s.lehM ≠ 0 → s.lehCount ≠ 0 → s.lehCount.toNat ≤ s.params.seqMax →
    ∃ t, exec .lehGen s = .next t ∧
      t = { s with
        seqmem := t.seqmem, lehSeqlen := s.lehCount, pvalid := t.pvalid, lehPeriod := t.lehPeriod
        lehFirstocc := t.lehFirstocc, lehProgress := 100, draws := s.draws + 1, busy := false, done := true } ∧
      t.seqmem.length = s.lehCount.toNat ∧ t.seqmem[0]? = some s.lehX0 ∧
      ∀ k x, t.seqmem[k]? = some x → k + 1 < s.lehCount.toNat →
        t.seqmem[k + 1]? = some (BitVec.ofNat 64 ((s.lehA.toNat * x.toNat + s.lehC.toNat) % s.lehM.toNat))

/-- After a completed LEH_GEN of n elements: if PVALID = 0 the n entries of SEQMEM are pairwise different and
LEH_PERIOD = LEH_FIRSTOCC = 0; if PVALID = 1, LEH_FIRSTOCC is the least index i whose entry equals an earlier
one, that earlier one stands at i − LEH_PERIOD, and the entries before i are pairwise different.
(rules R153, R154, R155.) -/
def Obligations.LehmerReportsFirstRepetition : Prop :=
  ∀ s t : State, s.lehM ≠ 0 → s.lehCount ≠ 0 → s.lehCount.toNat ≤ s.params.seqMax → exec .lehGen s = .next t →
    (t.pvalid = false →
      t.lehPeriod = 0 ∧ t.lehFirstocc = 0 ∧
        ∀ i j, j < i → i < s.lehCount.toNat → t.seqmem[i]? ≠ t.seqmem[j]?) ∧
    (t.pvalid = true →
      ∃ i j, j < i ∧ i < s.lehCount.toNat ∧ t.seqmem[i]? = t.seqmem[j]? ∧ t.lehFirstocc.toNat = i ∧
        t.lehPeriod.toNat = i - j ∧ ∀ i' j', j' < i' → i' < i → t.seqmem[i']? ≠ t.seqmem[j']?)

/-- MD5_INIT completes in every state with MD5_ACC0..3 = MD5_IV and every other field as it was, and the host then
reads them at 0x20 to 0x23; MD5_IV is the parameter of rule R10, at its default 0x67452301, 0xefcdab89,
0x98badcfe, 0x10325476 (log 1).
(rules R171, R178.) -/
def Obligations.Md5InitLoadsTheStartValues : Prop :=
  ∀ s : State, ∃ t, exec .md5Init s = .next t ∧
    t = { s with md5Acc := s.params.md5Iv, busy := false, done := true } ∧
    readReg t 0x20 = s.params.md5Iv.a.setWidth 64 ∧ readReg t 0x21 = s.params.md5Iv.b.setWidth 64 ∧
    readReg t 0x22 = s.params.md5Iv.c.setWidth 64 ∧ readReg t 0x23 = s.params.md5Iv.d.setWidth 64 ∧
    (s.params = Config.default → t.md5Acc = ⟨0x67452301#32, 0xefcdab89#32, 0x98badcfe#32, 0x10325476#32⟩)

/-- With the length within the capacity and off + 64 within the length: MD5_BLOCK completes in every configuration,
the accumulators become Compress of the old ones and the 64 bytes at off, every byte of memory and every other
field but BUSY and DONE is as it was. With the default tables Compress is fixed on three examples of the spec:
from MD5_IV on 64 zero bytes, from MD5_IV on the padded block of abc, and from zeros on 64 zero bytes.
(rules R174, R175, R176, R179.) -/
def Obligations.Md5BlockCompressesOneBlock : Prop :=
  (∀ (s : State) (sp : Buf) (off : BitVec 16), s.blen sp ≤ bufCap s.params sp → off.toNat + 64 ≤ s.blen sp →
      exec (.md5Block sp off) s =
        .next { s with
          md5Acc := md5Compress s.params s.md5Acc (s.bytesAt sp off.toNat 64), busy := false, done := true }) ∧
    (let iv : Acc := ⟨0x67452301#32, 0xefcdab89#32, 0x98badcfe#32, 0x10325476#32⟩;
      md5Compress Config.default iv (List.replicate 64 0#8) =
          ⟨0x031F1DAC#32, 0x6EA58ED0#32, 0x1FAB67B7#32, 0x74317791#32⟩ ∧
        md5Compress Config.default iv
            ([0x61#8, 0x62#8, 0x63#8, 0x80#8] ++ List.replicate 52 0#8 ++ 0x18#8 :: List.replicate 7 0#8) =
          ⟨0x98500190#32, 0xB04FD23C#32, 0x7D3F96D6#32, 0x727FE128#32⟩ ∧
        md5Compress Config.default ⟨0#32, 0#32, 0#32, 0#32⟩ (List.replicate 64 0#8) =
          ⟨0xF7CD1C97#32, 0xA5483681#32, 0x2B68D832#32, 0xF90CA639#32⟩)

/-- For a message of n bytes the padded one has 64·(floor((n + 8)/64) + 1) bytes: the message, then 0x80, then (55 −
n) mod 64 zero bytes, then 8·n as 8 little-endian bytes; 9 to 72 bytes are added.
(rule R177.) -/
def Obligations.Md5PaddingShape : Prop :=
  ∀ msg : List Byte,
    let p := md5Pad msg
    let n := msg.length
    p.length = 64 * ((n + 8) / 64 + 1) ∧ p.take n = msg ∧ p[n]? = some 0x80#8 ∧
    (∀ k, n < k → k < p.length - 8 → p[k]? = some 0#8) ∧
    (∀ k, k < 8 → p[p.length - 8 + k]? = some (byteOf (8 * n) k)) ∧
    9 ≤ p.length - n ∧ p.length - n ≤ 72 ∧ ((p.length - n - 9 : Nat) : Int) = (55 - (n : Int)) % 64

/-- With INLEN at most BUF_MAX: MD5_DIGEST completes; MD5_ACC is Compress folded over the 64-byte blocks of Pad of
the input bytes, in increasing order, from MD5_IV; OUTMEM[0..16) are the little-endian bytes of A, B, C, D and
every offset from 16 on holds nothing specified, as it is not listed (log 6); OUTLEN = 16; only these, BUSY,
DONE and the model's draw counter (log 8) change. At the default parameters the accumulators of the message abc
are the spec's.
(rules R64, R170, R176, R177, R180.) -/
def Obligations.Md5DigestWritesTheDigest : Prop :=
  (∀ s : State, s.inlen.toNat ≤ s.params.bufMax →
      let p := md5Pad s.input
      let acc := (List.range (p.length / 64)).foldl
        (fun a k => md5Compress s.params a ((p.drop (64 * k)).take 64)) s.params.md5Iv
      ∃ t, exec .md5Digest s = .next t ∧
        t = { s with
          md5Acc := acc, outmem := t.outmem, outlen := 16, draws := s.draws + 1, busy := false, done := true } ∧
        ∀ a, memGet t.outmem a =
          if a < 16 then some (byteOf ([acc.a, acc.b, acc.c, acc.d].getD (a / 4) 0).toNat (a % 4)) else none) ∧
    md5DigestAcc Config.default [0x61#8, 0x62#8, 0x63#8] =
      ⟨0x98500190#32, 0xB04FD23C#32, 0x7D3F96D6#32, 0x727FE128#32⟩

/-- With INLEN at most BUF_MAX: MD5_HEX completes with MD5_ACC as MD5_DIGEST leaves it (clause one says that both
end with the same accumulators); OUTMEM[2k] and OUTMEM[2k + 1] are the ASCII characters of the upper and lower
four bits of digest byte k, 0x30 + v below 10 and 0x61 + v − 10 from 10 on; every offset from 32 on holds
nothing specified, as it is not listed (log 6); OUTLEN = 32; nothing else changes but BUSY, DONE and the model's
draw counter (log 8).
(rules R64, R181, R182.) -/
def Obligations.Md5HexWritesTheCharacters : Prop :=
  ∀ s : State, s.inlen.toNat ≤ s.params.bufMax →
    (∀ u, exec .md5Digest s = .next u → u.md5Acc = md5DigestAcc s.params s.input) ∧
    let acc := md5DigestAcc s.params s.input
    let digit := fun v : Nat => if v < 10 then BitVec.ofNat 8 (0x30 + v) else BitVec.ofNat 8 (0x61 + v - 10)
    ∃ t, exec .md5Hex s = .next t ∧
      t = { s with
        md5Acc := acc, outmem := t.outmem, outlen := 32, draws := s.draws + 1, busy := false, done := true } ∧
      (∀ k, k < 16 →
        let v := (byteOf ([acc.a, acc.b, acc.c, acc.d].getD (k / 4) 0).toNat (k % 4)).toNat
        memGet t.outmem (2 * k) = some (digit (v / 16)) ∧ memGet t.outmem (2 * k + 1) = some (digit (v % 16))) ∧
      ∀ a, 32 ≤ a → memGet t.outmem a = none

/-- For every width and non-empty key of b bytes: L has c words with (c − 1)·u < b at most c·u, that is c =
ceil(b/u), and word q is the little-endian number of key bytes q·u to q·u + u − 1, those beyond the key taken as
0.
(rule R205.) -/
def Obligations.KeyPacksLittleEndian : Prop :=
  ∀ (w : Width) (key : List Byte), key ≠ [] →
    (packKey w.bytes key : List (Word w)).length = (key.length + w.bytes - 1) / w.bytes ∧
    ∀ q, q < (key.length + w.bytes - 1) / w.bytes →
      ∃ v : Word w, (packKey w.bytes key : List (Word w))[q]? = some v ∧
        ∀ k, k < w.bytes → byteOf v.toNat k = key.getD (q * w.bytes + k) 0

/-- For all constants, every width and table size t and q below t, entry q of the initial table is (P_w + q·Q_w) mod
2^w; with the default constants the first four entries are the spec's example values at each width.
(rule R206.) -/
def Obligations.InitialTableIsArithmetic : Prop :=
  (∀ (p : Params) (w : Width) (t q : Nat), q < t →
      (initTable (p.rc5Q w) t (p.rc5P w))[q]? =
        some (BitVec.ofNat w.bits ((p.rc5P w).toNat + q * (p.rc5Q w).toNat))) ∧
    (initTable (Config.default.rc5Q .w16) 4 (Config.default.rc5P .w16)).map (·.toNat) = [0xB7E1, 0x5618, 0xF44F, 0x9286] ∧
    (initTable (Config.default.rc5Q .w32) 4 (Config.default.rc5P .w32)).map (·.toNat) =
      [0xB7E15162, 0x5618CB1B, 0xF45044D4, 0x9287BE8D] ∧
    (initTable (Config.default.rc5Q .w64) 4 (Config.default.rc5P .w64)).map (·.toNat) =
      [0xB7E151628AED2A6B, 0x5618CB1C0A37A680, 0xF45044D589822295, 0x9287BE8F08CC9EAA]

/-- For every width and round count and every non-empty key: appending k zero bytes that still fit the last key word
changes nothing in the key table.
(rules R205, R242.) -/
def Obligations.ZeroExtendedKeysShareTheTable : Prop :=
  ∀ (p : Params) (w : Width) (r k : Nat) (key : List Byte), key ≠ [] →
    key.length + k ≤ (key.length + w.bytes - 1) / w.bytes * w.bytes →
    expandKey p w r (key ++ List.replicate k 0#8) = expandKey p w r key

/-- With a supported width, rounds not 0 and 1 to KEY_MAX key bytes: RC5_EXPAND completes; STAB is ExpandKey of the
key bytes, width and rounds, zero extended, of 2(r + 1) words; KVALID = 1; only STAB, KVALID, BUSY, DONE and the
model's draw counter (log 8) change. For all constants, widths, rounds and keys, ExpandKey is S after 3·max(t,
c) steps of the mixing equations on the naturals, t = 2(r + 1), c = ceil(b/u), from the initial S and L and i =
j = x = y = 0: S[i] becomes rotl(S[i] + x + y, 3), which is the new x; L[j] becomes rotl(L[j] + new x + y, new x
+ y), which is the new y; i and j advance mod t and mod c. At the default constants with w = 16, r = 1 the table
of key 01 02 03 is 68D4 EEFF 047C F307, and that of the 11-byte key 01 to 0B, where c exceeds t, is CD76 6C85
C279 3244.
(rules R37, R203, R205, R206, R207, R208, R209.) -/
def Obligations.ExpandBuildsTheTable : Prop :=
  (∀ (w : Width) (s : State), s.configured w → s.cfgRounds ≠ 0 → s.keylen ≠ 0 →
      s.keylen.toNat ≤ s.params.keyMax →
      ∃ t, exec .rc5Expand s = .next t ∧
        t = { s with
          stab := (expandKey s.params w s.cfgRounds.toNat s.keyBytes).map (·.setWidth 64), kvalid := true
          draws := s.draws + 1, busy := false, done := true } ∧
        t.stab.length = 2 * (s.cfgRounds.toNat + 1)) ∧
    (∀ (p : Params) (w : Width) (r : Nat) (key : List Byte) (m : Nat → MixState w.bits),
      let t := 2 * (r + 1)
      let c := (key.length + w.bytes - 1) / w.bytes
      m 0 = ⟨initTable (p.rc5Q w) t (p.rc5P w), packKey w.bytes key, 0, 0, 0, 0⟩ →
      (∀ k, k < 3 * max t c →
        let a := m k
        let b := m (k + 1)
        b.x.toNat = rotlSpec w.bits (((a.s.getD a.i 0).toNat + a.x.toNat + a.y.toNat) % 2 ^ w.bits) 3 ∧
        b.y.toNat = rotlSpec w.bits (((a.l.getD a.j 0).toNat + b.x.toNat + a.y.toNat) % 2 ^ w.bits)
          (b.x.toNat + a.y.toNat) ∧
        b.s = a.s.set a.i b.x ∧ b.l = a.l.set a.j b.y ∧ b.i = (a.i + 1) % t ∧ b.j = (a.j + 1) % c) →
      expandKey p w r key = (m (3 * max t c)).s) ∧
    (expandKey Config.default .w16 1 [0x01#8, 0x02#8, 0x03#8]).map (·.toNat) = [0x68D4, 0xEEFF, 0x047C, 0xF307] ∧
    (expandKey Config.default .w16 1 [0x01#8, 0x02#8, 0x03#8, 0x04#8, 0x05#8, 0x06#8, 0x07#8, 0x08#8, 0x09#8, 0x0A#8,
        0x0B#8]).map (·.toNat) = [0xCD76, 0x6C85, 0xC279, 0x3244]

/-- For every width, table S, number of rounds and pair of words: with no round EncBlock adds S[0] and S[1]; round i
takes A to rotl(A xor B, B) + S[2i] and then B to rotl(B xor A, A) + S[2i + 1] with the new A, mod 2^w, the
rotate amounts taken mod w; DecBlock undoes EncBlock and EncBlock undoes DecBlock. The worked example: w = 16, r
= 1, table 68D4 EEFF 047C F307, block 10 11 12 13 becomes 66 FC 06 91.
(rules R210, R211, R212.) -/
def Obligations.BlockDecodeInvertsBlockEncode : Prop :=
  (∀ (w : Width) (S : List (Word w)) (r : Nat) (p : Word w × Word w),
      (encBlock S 0 p).1.toNat = (p.1.toNat + (S.getD 0 0).toNat) % 2 ^ w.bits ∧
      (encBlock S 0 p).2.toNat = (p.2.toNat + (S.getD 1 0).toNat) % 2 ^ w.bits ∧
      (let A := (encBlock S r p).1
        let B := (encBlock S r p).2
        let A' := (encBlock S (r + 1) p).1
        let B' := (encBlock S (r + 1) p).2
        A'.toNat =
            (rotlSpec w.bits (A.toNat ^^^ B.toNat) B.toNat + (S.getD (2 * (r + 1)) 0).toNat) % 2 ^ w.bits ∧
          B'.toNat =
            (rotlSpec w.bits (B.toNat ^^^ A'.toNat) A'.toNat + (S.getD (2 * (r + 1) + 1) 0).toNat) % 2 ^ w.bits) ∧
      decBlock S r (encBlock S r p) = p ∧ encBlock S r (decBlock S r p) = p) ∧
    encBytes .w16 [0x68D4#16, 0xEEFF#16, 0x047C#16, 0xF307#16] 1 [0x10#8, 0x11#8, 0x12#8, 0x13#8] =
      [0x66#8, 0xFC#8, 0x06#8, 0x91#8]

/-- With a supported width, rounds not 0, the length within the capacity, KVALID = 1 and off + 2u within the length:
the command completes; the u bytes at off and the u bytes at off + u are the little-endian bytes of the two
words that EncBlock (DecBlock) gives on the words read there with the table in STAB; every other byte of that
space, the other spaces and every other field but BUSY and DONE are as they were.
(rules R65, R71, R212, R213.) -/
def Obligations.BlockCommandsWorkInPlace : Prop :=
  ∀ (w : Width) (s : State) (sp : Buf) (off : BitVec 16), s.configured w → s.cfgRounds ≠ 0 →
    s.blen sp ≤ bufCap s.params sp → s.kvalid = true → off.toNat + 2 * w.bytes ≤ s.blen sp →
    let block := (s.wordAt w sp off.toNat, s.wordAt w sp (off.toNat + w.bytes))
    ∀ q ∈ [(Instr.rc5Encblk sp off, encBlock (s.tableWords w) s.cfgRounds.toNat block),
        (.rc5Decblk sp off, decBlock (s.tableWords w) s.cfgRounds.toNat block)],
      ∃ t, exec q.1 s = .next t ∧
        t = { s.setBuf sp (t.buf sp) with busy := false, done := true } ∧
        ∀ a, memGet (t.buf sp) a =
          if off.toNat ≤ a ∧ a < off.toNat + w.bytes then some (byteOf q.2.1.toNat (a - off.toNat))
          else if off.toNat + w.bytes ≤ a ∧ a < off.toNat + 2 * w.bytes then
            some (byteOf q.2.2.toNat (a - (off.toNat + w.bytes)))
          else memGet (s.buf sp) a

/-- With the conditions under which RC5_ENCBLK completes: after it, RC5_DECBLK of the same block, accepted next,
completes and every byte of the block reads as before both commands.
(rules R211, R212, R213.) -/
def Obligations.DecblkRestoresWhatEncblkWrote : Prop :=
  ∀ (w : Width) (s u : State) (sp : Buf) (off : BitVec 16) (c : BitVec 32), s.configured w → s.cfgRounds ≠ 0 →
    s.blen sp ≤ bufCap s.params sp → s.kvalid = true → off.toNat + 2 * w.bytes ≤ s.blen sp →
    exec (.rc5Encblk sp off) s = .next u →
    ∃ t, exec (.rc5Decblk sp off) (u.accept c) = .next t ∧ t.done = true ∧ t.err = s.err ∧
      ∀ k, k < 2 * w.bytes → memGet (t.buf sp) (off.toNat + k) = some (s.byteAt sp (off.toNat + k))

/-- For every width and message of n bytes: the padded length is bb·(floor(n/bb) + 1); the message comes first; the
number of bytes added is 1 to bb, bb at most 16, and each added byte equals it.
(rule R230.) -/
def Obligations.MessagePaddingShape : Prop :=
  ∀ (w : Width) (p : List Byte),
    let bb := 2 * w.bytes
    let q := pad7 w.blockBytes p
    q.length = bb * (p.length / bb + 1) ∧ q.take p.length = p ∧ 1 ≤ q.length - p.length ∧
    q.length - p.length ≤ bb ∧ bb ≤ 16 ∧
    ∀ k, p.length ≤ k → k < q.length → q[k]? = some (BitVec.ofNat 8 (q.length - p.length))

/-- With the default IVGEN and LW, whenever 4·klb is at least one block, the IV is 17 00 00 00 at w = 16, 17 00 00
00 E2 02 00 00 at w = 32, and 17 00 00 00 E2 02 00 00 59 00 00 00 24 03 00 00 at w = 64.
(rule R231.) -/
def Obligations.InitialisationVectorIsFixed : Prop :=
  ∀ klb : Nat,
    (4 ≤ 4 * klb → deriveIV Config.default klb (Width.blockBytes .w16) = [0x17#8, 0#8, 0#8, 0#8]) ∧
    (8 ≤ 4 * klb →
      deriveIV Config.default klb (Width.blockBytes .w32) = [0x17#8, 0#8, 0#8, 0#8, 0xE2#8, 0x02#8, 0#8, 0#8]) ∧
    (16 ≤ 4 * klb →
      deriveIV Config.default klb (Width.blockBytes .w64) =
        [0x17#8, 0#8, 0#8, 0#8, 0xE2#8, 0x02#8, 0#8, 0#8, 0x59#8, 0#8, 0#8, 0#8, 0x24#8, 0x03#8, 0#8, 0#8])

/-- For every block function that gives bb bytes, every IV of bb bytes and every padded message of m blocks: the
output has m + 1 blocks; block 0 is the encoded IV; block 1 is the encoding of message block 0 exclusive-ored
with the raw IV; block q + 1 is the encoding of message block q exclusive-ored with output block q.
(rule R234.) -/
def Obligations.EncodeChainsFromTheRawIv : Prop :=
  ∀ (enc : List Byte → List Byte) (bb m : Nat) (iv pp : List Byte), 0 < bb → (∀ x, (enc x).length = bb) →
    iv.length = bb → pp.length = m * bb →
    let out := encodeMsg enc bb iv pp
    out.length = (m + 1) * bb ∧ out.take bb = enc iv ∧
    (0 < m → (out.drop bb).take bb = enc (xorBytes (pp.take bb) iv)) ∧
    ∀ q, 0 < q → q < m →
      (out.drop ((q + 1) * bb)).take bb =
        enc (xorBytes ((pp.drop (q * bb)).take bb) ((out.drop (q * bb)).take bb))

/-- With a supported width, rounds not 0, IV_VALUE_BYTES·klb (4·klb at the default) at least one block, 1 to KEY_MAX
key bytes, INLEN at most BUF_MAX and parameters within the constraints of rule R10: RC5_ENCODE completes; STAB
is the table of the key, KVALID = 1; OUTMEM holds exactly the encoded message, no other byte being listed (log
6); OUTLEN = bb·(floor(INLEN/bb) + 2), at most OUT_MAX; only these, BUSY, DONE and the model's draw counter (log
8) change.
(rules R10, R64, R235, R236.) -/
def Obligations.EncodeWritesTheCiphertext : Prop :=
  ∀ (w : Width) (s : State), s.configured w → s.cfgRounds ≠ 0 → 2 * w.bytes ≤ s.params.ivValueBytes * s.cfgKlb.toNat →
    s.keylen ≠ 0 → s.keylen.toNat ≤ s.params.keyMax → s.inlen.toNat ≤ s.params.bufMax → s.params.Legal →
    let bb := 2 * w.bytes
    ∃ t, exec .rc5Encode s = .next t ∧
      t = { s with
        stab := (expandKey s.params w s.cfgRounds.toNat s.keyBytes).map (·.setWidth 64), kvalid := true
        outmem := t.outmem, outlen := BitVec.ofNat 32 (bb * (s.inlen.toNat / bb + 2)), draws := s.draws + 2
        busy := false, done := true } ∧
      t.outlen.toNat = bb * (s.inlen.toNat / bb + 2) ∧ t.outlen.toNat ≤ s.params.outMax ∧
      (∀ a, memGet t.outmem a = (s.ciphertext w)[a]?) ∧ (s.ciphertext w).length = t.outlen.toNat

/-- With the earlier checks passed: the recovered buffer R has INLEN − bb bytes; if it is empty
InvalidPadding(0x100) is raised; if its last byte p exceeds its length InvalidPadding(p) is raised; both with
the table rebuilt, OUTLEN = 0 and OUTMEM unspecified; else, 0 and values above bb included, the command
completes with OUTLEN = len(R) − p and OUTMEM the first bytes of R. Nothing else changes but BUSY, DONE and the
model's draw counter (log 8); that OUTMEM then lists no other written byte, and none after InvalidPadding, is
how the model holds unspecified contents (log 6).
(rules R64, R238, R240, R281.) -/
def Obligations.DecodeChecksThePaddingByte : Prop :=
  ∀ (w : Width) (s : State), s.configured w → s.cfgRounds ≠ 0 → s.keylen ≠ 0 →
    s.keylen.toNat ≤ s.params.keyMax → s.inlen.toNat ≤ s.params.bufMax → 2 * w.bytes ≤ s.inlen.toNat →
    s.inlen.toNat % (2 * w.bytes) = 0 →
    let R := s.recovered w
    let rebuilt : State := { s with
      stab := (expandKey s.params w s.cfgRounds.toNat s.keyBytes).map (·.setWidth 64), kvalid := true, draws := s.draws + 2 }
    R.length = s.inlen.toNat - 2 * w.bytes ∧
    (R = [] → exec .rc5Decode s = .next (State.failed 2 0x100 { rebuilt with outmem := [], outlen := 0 })) ∧
    (∀ p, R.getLast? = some p → R.length < p.toNat →
      exec .rc5Decode s = .next (State.failed 2 (p.setWidth 32) { rebuilt with outmem := [], outlen := 0 })) ∧
    (∀ p, R.getLast? = some p → p.toNat ≤ R.length →
      ∃ t, exec .rc5Decode s = .next t ∧
        t = { rebuilt with
          outmem := t.outmem, outlen := BitVec.ofNat 32 (R.length - p.toNat), busy := false, done := true } ∧
        ∀ a, memGet t.outmem a = if a < R.length - p.toNat then R[a]? else none)

/-- With parameters within the constraints of rule R10, a supported width, 1 to 255 rounds, IV_VALUE_BYTES·klb
(4·klb at the default) at least one block, 1 to KEY_MAX key bytes, all of them written, and INLEN at most
BUF_MAX − 2·bb, ERR = 0: after RC5_ENCODE, when the host has copied the OUTLEN bytes of OUTMEM to INMEM,
whatever INMEM holds beyond them, and OUTLEN to INLEN, and RC5_DECODE is accepted, it ends with ERR = 0, DONE =
1, OUTLEN the message length and OUTMEM the message. That the round trip ends with ERR = 0 and the message in
OUTMEM is the spec's own inference, which rule R241 marks as derived from rules R230, R234, R238 and R211. The
premise that the key bytes are written is the model's and not in rule R241: an unwritten byte is a new draw at
each command (log 6), so the statement says less than the rule for a key with unwritten bytes.
(rules R211, R230, R234, R238, R241.) -/
def Obligations.MessageRoundTrip : Prop :=
  ∀ (w : Width) (s u : State) (c : BitVec 32) (m : Memory), s.params.Legal → s.configured w → s.cfgRounds ≠ 0 →
    2 * w.bytes ≤ s.params.ivValueBytes * s.cfgKlb.toNat → s.keylen ≠ 0 → s.keylen.toNat ≤ s.params.keyMax →
    (∀ a, a < s.keylen.toNat → memGet s.keymem a ≠ none) →
    s.inlen.toNat ≤ s.params.bufMax - 2 * (2 * w.bytes) → s.err = false →
    exec .rc5Encode s = .next u →
    (∀ a, a < u.outlen.toNat → memGet m a = memGet u.outmem a) →
    ∃ t, exec .rc5Decode { u.accept c with inmem := m, inlen := u.outlen } = .next t ∧
      t.err = false ∧ t.done = true ∧ t.outlen = s.inlen ∧
      ∀ a, a < s.inlen.toNat → memGet t.outmem a = some (s.byteAt .inmem a)

/-- Two states that agree on the parameters, the width, rounds and key bytes, whatever else they hold (CFG_KLB too,
as long as it suffices): the two outputs have the same first block; if the messages also agree, the same OUTMEM
and OUTLEN.
(rule R237.) -/
def Obligations.EncodeIsPredictable : Prop :=
  ∀ (w : Width) (s s' t t' : State), s.params = s'.params → s.configured w → s'.configured w → s.cfgRounds ≠ 0 →
    s.cfgRounds = s'.cfgRounds → s.keylen ≠ 0 → s.keylen.toNat ≤ s.params.keyMax → s.keyBytes = s'.keyBytes →
    2 * w.bytes ≤ s.params.ivValueBytes * s.cfgKlb.toNat → 2 * w.bytes ≤ s'.params.ivValueBytes * s'.cfgKlb.toNat →
    s.inlen.toNat ≤ s.params.bufMax → s'.inlen.toNat ≤ s'.params.bufMax →
    exec .rc5Encode s = .next t → exec .rc5Encode s' = .next t' →
    (∀ a, a < 2 * w.bytes → memGet t.outmem a = memGet t'.outmem a ∧ memGet t.outmem a ≠ none) ∧
    (s.input = s'.input → t.outmem = t'.outmem ∧ t.outlen = t'.outlen)
end

