-- ==== Sys2Proof/Laws/Bytes.lean ====
section
/-! SUPPORT. Lengths and the byte order: what the little-endian helpers and the byte-string functions give. -/

namespace Sys2Proof.Machine

@[simp] theorem length_toLE (k v : Nat) : (toLE k v).length = k := by
  induction k generalizing v with
  | zero => rfl
  | succ k ih => simp [toLE, ih]

/-- FromLE undoes LE_k, mod 2^(8k). -/
theorem fromLE_toLE (k v : Nat) : fromLE (toLE k v) = v % 256 ^ k := by
  induction k generalizing v with
  | zero => simp [toLE, fromLE, Nat.mod_one]
  | succ k ih =>
    rw [toLE, fromLE, ih, BitVec.toNat_ofNat, show (2 : Nat) ^ 8 = 256 from rfl, Nat.pow_succ,
      Nat.mul_comm (256 ^ k) 256, Nat.mod_mul]

/-- FromLE of k bytes is below 2^(8k). -/
theorem fromLE_lt (bs : List Byte) : fromLE bs < 256 ^ bs.length := by
  induction bs with
  | nil => simp [fromLE]
  | cons b bs ih =>
    have hb : b.toNat < 256 := b.isLt
    simp only [fromLE, List.length_cons, Nat.pow_succ]
    omega

/-- Byte k of LE_n(v) is bits 8k+7 to 8k of v (rule R12). -/
theorem getElem?_toLE (n v k : Nat) (h : k < n) : (toLE n v)[k]? = some (BitVec.ofNat 8 (v / 256 ^ k)) := by
  induction n generalizing v k with
  | zero => omega
  | succ n ih =>
    cases k with
    | zero => simp [toLE]
    | succ k =>
      simp only [toLE, List.getElem?_cons_succ]
      rw [ih (v / 256) k (by omega), Nat.div_div_eq_div_mul, Nat.pow_succ, Nat.mul_comm 256]

@[simp] theorem length_wordBytes (w : Width) (v : Word w) : (wordBytes w v).length = w.bytes := by simp [wordBytes]

/-- A word's bytes read back as the word. -/
@[simp] theorem wordOfBytes_wordBytes (w : Width) (v : Word w) : wordOfBytes w (wordBytes w v) = v := by
  have h : v.toNat < 256 ^ w.bytes := by
    refine Nat.lt_of_lt_of_le v.isLt ?_
    cases w <;> simp [Width.bits, Width.bytes]
  simp [wordOfBytes, wordBytes, fromLE_toLE, Nat.mod_eq_of_lt h]

@[simp] theorem length_blockBytes (w : Width) (p : Word w × Word w) : (blockBytes w p).length = w.blockBytes := by
  simp [blockBytes, Width.blockBytes]
  omega

@[simp] theorem length_encBytes (w : Width) (S : List (Word w)) (r : Nat) (x : List Byte) :
    (encBytes w S r x).length = w.blockBytes := by simp [encBytes]

@[simp] theorem length_decBytes (w : Width) (S : List (Word w)) (r : Nat) (x : List Byte) :
    (decBytes w S r x).length = w.blockBytes := by simp [decBytes]

@[simp] theorem length_accBytes (r : Acc) : (accBytes r).length = 16 := by simp [accBytes]

@[simp] theorem length_hexOf (bs : List Byte) : (hexOf bs).length = 2 * bs.length := by
  induction bs with
  | nil => rfl
  | cons b bs ih =>
    simp only [hexOf, List.length_cons, ih]
    omega

@[simp] theorem length_initTable {n : Nat} (q : BitVec n) (k : Nat) (p : BitVec n) : (initTable q k p).length = k := by
  induction k generalizing p with
  | zero => rfl
  | succ k ih => simp [initTable, ih]

/-- The mixing keeps the sizes of both tables. -/
theorem length_mixLoop {n : Nat} (k : Nat) (m : MixState n) :
    (mixLoop k m).s.length = m.s.length ∧ (mixLoop k m).l.length = m.l.length := by
  induction k generalizing m with
  | zero => exact ⟨rfl, rfl⟩
  | succ k ih =>
    have h := ih (mixStep m)
    simpa [mixLoop, mixStep] using h

@[simp] theorem length_expandKey (p : Params) (w : Width) (r : Nat) (key : List Byte) :
    (expandKey p w r key).length = tableSize r := by
  simp [expandKey, expandKeyWith, length_mixLoop]

@[simp] theorem length_bytesAt (s : State) (sp : Buf) (a k : Nat) : (s.bytesAt sp a k).length = k := by
  simp [State.bytesAt]

/-- Byte j of a run of bytes is the byte at its offset. -/
theorem getElem?_bytesAt (s : State) (sp : Buf) (a k j : Nat) (h : j < k) :
    (s.bytesAt sp a k)[j]? = some (s.byteAt sp (a + j)) := by
  simp [State.bytesAt, h]

@[simp] theorem length_keyBytes (s : State) : s.keyBytes.length = s.keylen.toNat := by simp [State.keyBytes]

@[simp] theorem length_input (s : State) : s.input.length = s.inlen.toNat := by simp [State.input]

@[simp] theorem length_tableWords (w : Width) (s : State) :
    (s.tableWords w).length = tableSize s.cfgRounds.toNat := by simp [State.tableWords]

end Sys2Proof.Machine
end

