-- ==== Sys2Proof/Laws/State.lean ====
section
/-! SUPPORT. What every named update of the state leaves in every field: one lemma per update and field, so that no proof
unfolds a record update. -/

namespace Sys2Proof.Machine

section AcceptFields

variable (c : BitVec 32) (s : State)

@[simp] theorem accept_cmd : (s.accept c).cmd = c := rfl
@[simp] theorem accept_busy : (s.accept c).busy = true := rfl
@[simp] theorem accept_done : (s.accept c).done = false := rfl
@[simp] theorem accept_err : (s.accept c).err = s.err := rfl
@[simp] theorem accept_kvalid : (s.accept c).kvalid = s.kvalid := rfl
@[simp] theorem accept_pvalid : (s.accept c).pvalid = s.pvalid := rfl
@[simp] theorem accept_errcode : (s.accept c).errcode = s.errcode := rfl
@[simp] theorem accept_errinfo : (s.accept c).errinfo = s.errinfo := rfl
@[simp] theorem accept_errcmd : (s.accept c).errcmd = s.errcmd := rfl
@[simp] theorem accept_cfgWordsize : (s.accept c).cfgWordsize = s.cfgWordsize := rfl
@[simp] theorem accept_cfgRounds : (s.accept c).cfgRounds = s.cfgRounds := rfl
@[simp] theorem accept_cfgKlb : (s.accept c).cfgKlb = s.cfgKlb := rfl
@[simp] theorem accept_keylen : (s.accept c).keylen = s.keylen := rfl
@[simp] theorem accept_inlen : (s.accept c).inlen = s.inlen := rfl
@[simp] theorem accept_outlen : (s.accept c).outlen = s.outlen := rfl
@[simp] theorem accept_wr0 : (s.accept c).wr0 = s.wr0 := rfl
@[simp] theorem accept_wr1 : (s.accept c).wr1 = s.wr1 := rfl
@[simp] theorem accept_wr2 : (s.accept c).wr2 = s.wr2 := rfl
@[simp] theorem accept_wr3 : (s.accept c).wr3 = s.wr3 := rfl
@[simp] theorem accept_lehA : (s.accept c).lehA = s.lehA := rfl
@[simp] theorem accept_lehC : (s.accept c).lehC = s.lehC := rfl
@[simp] theorem accept_lehM : (s.accept c).lehM = s.lehM := rfl
@[simp] theorem accept_lehX0 : (s.accept c).lehX0 = s.lehX0 := rfl
@[simp] theorem accept_lehCount : (s.accept c).lehCount = s.lehCount := rfl
@[simp] theorem accept_lehSeqlen : (s.accept c).lehSeqlen = s.lehSeqlen := rfl
@[simp] theorem accept_lehPeriod : (s.accept c).lehPeriod = s.lehPeriod := rfl
@[simp] theorem accept_lehFirstocc : (s.accept c).lehFirstocc = s.lehFirstocc := rfl
@[simp] theorem accept_lehProgress : (s.accept c).lehProgress = s.lehProgress := rfl
@[simp] theorem accept_md5Acc : (s.accept c).md5Acc = s.md5Acc := rfl
@[simp] theorem accept_keymem : (s.accept c).keymem = s.keymem := rfl
@[simp] theorem accept_inmem : (s.accept c).inmem = s.inmem := rfl
@[simp] theorem accept_outmem : (s.accept c).outmem = s.outmem := rfl
@[simp] theorem accept_stab : (s.accept c).stab = s.stab := rfl
@[simp] theorem accept_seqmem : (s.accept c).seqmem = s.seqmem := rfl
@[simp] theorem accept_schedule : (s.accept c).schedule = s.schedule := rfl
@[simp] theorem accept_hostData : (s.accept c).hostData = s.hostData := rfl
@[simp] theorem accept_draws : (s.accept c).draws = s.draws := rfl
@[simp] theorem accept_seen : (s.accept c).seen = 0 := rfl
@[simp] theorem accept_params : (s.accept c).params = s.params := rfl

end AcceptFields

section CompleteFields

variable (s : State)

@[simp] theorem complete_cmd : (s.complete).cmd = s.cmd := rfl
@[simp] theorem complete_busy : (s.complete).busy = false := rfl
@[simp] theorem complete_done : (s.complete).done = true := rfl
@[simp] theorem complete_err : (s.complete).err = s.err := rfl
@[simp] theorem complete_kvalid : (s.complete).kvalid = s.kvalid := rfl
@[simp] theorem complete_pvalid : (s.complete).pvalid = s.pvalid := rfl
@[simp] theorem complete_errcode : (s.complete).errcode = s.errcode := rfl
@[simp] theorem complete_errinfo : (s.complete).errinfo = s.errinfo := rfl
@[simp] theorem complete_errcmd : (s.complete).errcmd = s.errcmd := rfl
@[simp] theorem complete_cfgWordsize : (s.complete).cfgWordsize = s.cfgWordsize := rfl
@[simp] theorem complete_cfgRounds : (s.complete).cfgRounds = s.cfgRounds := rfl
@[simp] theorem complete_cfgKlb : (s.complete).cfgKlb = s.cfgKlb := rfl
@[simp] theorem complete_keylen : (s.complete).keylen = s.keylen := rfl
@[simp] theorem complete_inlen : (s.complete).inlen = s.inlen := rfl
@[simp] theorem complete_outlen : (s.complete).outlen = s.outlen := rfl
@[simp] theorem complete_wr0 : (s.complete).wr0 = s.wr0 := rfl
@[simp] theorem complete_wr1 : (s.complete).wr1 = s.wr1 := rfl
@[simp] theorem complete_wr2 : (s.complete).wr2 = s.wr2 := rfl
@[simp] theorem complete_wr3 : (s.complete).wr3 = s.wr3 := rfl
@[simp] theorem complete_lehA : (s.complete).lehA = s.lehA := rfl
@[simp] theorem complete_lehC : (s.complete).lehC = s.lehC := rfl
@[simp] theorem complete_lehM : (s.complete).lehM = s.lehM := rfl
@[simp] theorem complete_lehX0 : (s.complete).lehX0 = s.lehX0 := rfl
@[simp] theorem complete_lehCount : (s.complete).lehCount = s.lehCount := rfl
@[simp] theorem complete_lehSeqlen : (s.complete).lehSeqlen = s.lehSeqlen := rfl
@[simp] theorem complete_lehPeriod : (s.complete).lehPeriod = s.lehPeriod := rfl
@[simp] theorem complete_lehFirstocc : (s.complete).lehFirstocc = s.lehFirstocc := rfl
@[simp] theorem complete_lehProgress : (s.complete).lehProgress = s.lehProgress := rfl
@[simp] theorem complete_md5Acc : (s.complete).md5Acc = s.md5Acc := rfl
@[simp] theorem complete_keymem : (s.complete).keymem = s.keymem := rfl
@[simp] theorem complete_inmem : (s.complete).inmem = s.inmem := rfl
@[simp] theorem complete_outmem : (s.complete).outmem = s.outmem := rfl
@[simp] theorem complete_stab : (s.complete).stab = s.stab := rfl
@[simp] theorem complete_seqmem : (s.complete).seqmem = s.seqmem := rfl
@[simp] theorem complete_schedule : (s.complete).schedule = s.schedule := rfl
@[simp] theorem complete_hostData : (s.complete).hostData = s.hostData := rfl
@[simp] theorem complete_draws : (s.complete).draws = s.draws := rfl
@[simp] theorem complete_seen : (s.complete).seen = s.seen := rfl
@[simp] theorem complete_params : (s.complete).params = s.params := rfl

end CompleteFields

section ClearKvalidFields

variable (s : State)

@[simp] theorem clearKvalid_cmd : (s.clearKvalid).cmd = s.cmd := rfl
@[simp] theorem clearKvalid_busy : (s.clearKvalid).busy = s.busy := rfl
@[simp] theorem clearKvalid_done : (s.clearKvalid).done = s.done := rfl
@[simp] theorem clearKvalid_err : (s.clearKvalid).err = s.err := rfl
@[simp] theorem clearKvalid_kvalid : (s.clearKvalid).kvalid = false := rfl
@[simp] theorem clearKvalid_pvalid : (s.clearKvalid).pvalid = s.pvalid := rfl
@[simp] theorem clearKvalid_errcode : (s.clearKvalid).errcode = s.errcode := rfl
@[simp] theorem clearKvalid_errinfo : (s.clearKvalid).errinfo = s.errinfo := rfl
@[simp] theorem clearKvalid_errcmd : (s.clearKvalid).errcmd = s.errcmd := rfl
@[simp] theorem clearKvalid_cfgWordsize : (s.clearKvalid).cfgWordsize = s.cfgWordsize := rfl
@[simp] theorem clearKvalid_cfgRounds : (s.clearKvalid).cfgRounds = s.cfgRounds := rfl
@[simp] theorem clearKvalid_cfgKlb : (s.clearKvalid).cfgKlb = s.cfgKlb := rfl
@[simp] theorem clearKvalid_keylen : (s.clearKvalid).keylen = s.keylen := rfl
@[simp] theorem clearKvalid_inlen : (s.clearKvalid).inlen = s.inlen := rfl
@[simp] theorem clearKvalid_outlen : (s.clearKvalid).outlen = s.outlen := rfl
@[simp] theorem clearKvalid_wr0 : (s.clearKvalid).wr0 = s.wr0 := rfl
@[simp] theorem clearKvalid_wr1 : (s.clearKvalid).wr1 = s.wr1 := rfl
@[simp] theorem clearKvalid_wr2 : (s.clearKvalid).wr2 = s.wr2 := rfl
@[simp] theorem clearKvalid_wr3 : (s.clearKvalid).wr3 = s.wr3 := rfl
@[simp] theorem clearKvalid_lehA : (s.clearKvalid).lehA = s.lehA := rfl
@[simp] theorem clearKvalid_lehC : (s.clearKvalid).lehC = s.lehC := rfl
@[simp] theorem clearKvalid_lehM : (s.clearKvalid).lehM = s.lehM := rfl
@[simp] theorem clearKvalid_lehX0 : (s.clearKvalid).lehX0 = s.lehX0 := rfl
@[simp] theorem clearKvalid_lehCount : (s.clearKvalid).lehCount = s.lehCount := rfl
@[simp] theorem clearKvalid_lehSeqlen : (s.clearKvalid).lehSeqlen = s.lehSeqlen := rfl
@[simp] theorem clearKvalid_lehPeriod : (s.clearKvalid).lehPeriod = s.lehPeriod := rfl
@[simp] theorem clearKvalid_lehFirstocc : (s.clearKvalid).lehFirstocc = s.lehFirstocc := rfl
@[simp] theorem clearKvalid_lehProgress : (s.clearKvalid).lehProgress = s.lehProgress := rfl
@[simp] theorem clearKvalid_md5Acc : (s.clearKvalid).md5Acc = s.md5Acc := rfl
@[simp] theorem clearKvalid_keymem : (s.clearKvalid).keymem = s.keymem := rfl
@[simp] theorem clearKvalid_inmem : (s.clearKvalid).inmem = s.inmem := rfl
@[simp] theorem clearKvalid_outmem : (s.clearKvalid).outmem = s.outmem := rfl
@[simp] theorem clearKvalid_stab : (s.clearKvalid).stab = s.stab := rfl
@[simp] theorem clearKvalid_seqmem : (s.clearKvalid).seqmem = s.seqmem := rfl
@[simp] theorem clearKvalid_schedule : (s.clearKvalid).schedule = s.schedule := rfl
@[simp] theorem clearKvalid_hostData : (s.clearKvalid).hostData = s.hostData := rfl
@[simp] theorem clearKvalid_draws : (s.clearKvalid).draws = s.draws + 1 := rfl
@[simp] theorem clearKvalid_seen : (s.clearKvalid).seen = s.seen := rfl
@[simp] theorem clearKvalid_params : (s.clearKvalid).params = s.params := rfl

end ClearKvalidFields

section SetTableFields

variable (w : Width) (tbl : List (Word w)) (s : State)

@[simp] theorem setTable_cmd : (s.setTable w tbl).cmd = s.cmd := rfl
@[simp] theorem setTable_busy : (s.setTable w tbl).busy = s.busy := rfl
@[simp] theorem setTable_done : (s.setTable w tbl).done = s.done := rfl
@[simp] theorem setTable_err : (s.setTable w tbl).err = s.err := rfl
@[simp] theorem setTable_kvalid : (s.setTable w tbl).kvalid = true := rfl
@[simp] theorem setTable_pvalid : (s.setTable w tbl).pvalid = s.pvalid := rfl
@[simp] theorem setTable_errcode : (s.setTable w tbl).errcode = s.errcode := rfl
@[simp] theorem setTable_errinfo : (s.setTable w tbl).errinfo = s.errinfo := rfl
@[simp] theorem setTable_errcmd : (s.setTable w tbl).errcmd = s.errcmd := rfl
@[simp] theorem setTable_cfgWordsize : (s.setTable w tbl).cfgWordsize = s.cfgWordsize := rfl
@[simp] theorem setTable_cfgRounds : (s.setTable w tbl).cfgRounds = s.cfgRounds := rfl
@[simp] theorem setTable_cfgKlb : (s.setTable w tbl).cfgKlb = s.cfgKlb := rfl
@[simp] theorem setTable_keylen : (s.setTable w tbl).keylen = s.keylen := rfl
@[simp] theorem setTable_inlen : (s.setTable w tbl).inlen = s.inlen := rfl
@[simp] theorem setTable_outlen : (s.setTable w tbl).outlen = s.outlen := rfl
@[simp] theorem setTable_wr0 : (s.setTable w tbl).wr0 = s.wr0 := rfl
@[simp] theorem setTable_wr1 : (s.setTable w tbl).wr1 = s.wr1 := rfl
@[simp] theorem setTable_wr2 : (s.setTable w tbl).wr2 = s.wr2 := rfl
@[simp] theorem setTable_wr3 : (s.setTable w tbl).wr3 = s.wr3 := rfl
@[simp] theorem setTable_lehA : (s.setTable w tbl).lehA = s.lehA := rfl
@[simp] theorem setTable_lehC : (s.setTable w tbl).lehC = s.lehC := rfl
@[simp] theorem setTable_lehM : (s.setTable w tbl).lehM = s.lehM := rfl
@[simp] theorem setTable_lehX0 : (s.setTable w tbl).lehX0 = s.lehX0 := rfl
@[simp] theorem setTable_lehCount : (s.setTable w tbl).lehCount = s.lehCount := rfl
@[simp] theorem setTable_lehSeqlen : (s.setTable w tbl).lehSeqlen = s.lehSeqlen := rfl
@[simp] theorem setTable_lehPeriod : (s.setTable w tbl).lehPeriod = s.lehPeriod := rfl
@[simp] theorem setTable_lehFirstocc : (s.setTable w tbl).lehFirstocc = s.lehFirstocc := rfl
@[simp] theorem setTable_lehProgress : (s.setTable w tbl).lehProgress = s.lehProgress := rfl
@[simp] theorem setTable_md5Acc : (s.setTable w tbl).md5Acc = s.md5Acc := rfl
@[simp] theorem setTable_keymem : (s.setTable w tbl).keymem = s.keymem := rfl
@[simp] theorem setTable_inmem : (s.setTable w tbl).inmem = s.inmem := rfl
@[simp] theorem setTable_outmem : (s.setTable w tbl).outmem = s.outmem := rfl
@[simp] theorem setTable_stab : (s.setTable w tbl).stab = tbl.map (·.setWidth 64) := rfl
@[simp] theorem setTable_seqmem : (s.setTable w tbl).seqmem = s.seqmem := rfl
@[simp] theorem setTable_schedule : (s.setTable w tbl).schedule = s.schedule := rfl
@[simp] theorem setTable_hostData : (s.setTable w tbl).hostData = s.hostData := rfl
@[simp] theorem setTable_draws : (s.setTable w tbl).draws = s.draws + 1 := rfl
@[simp] theorem setTable_seen : (s.setTable w tbl).seen = s.seen := rfl
@[simp] theorem setTable_params : (s.setTable w tbl).params = s.params := rfl

end SetTableFields

section SetOutputFields

variable (bs : List Byte) (s : State)

@[simp] theorem setOutput_cmd : (s.setOutput bs).cmd = s.cmd := rfl
@[simp] theorem setOutput_busy : (s.setOutput bs).busy = s.busy := rfl
@[simp] theorem setOutput_done : (s.setOutput bs).done = s.done := rfl
@[simp] theorem setOutput_err : (s.setOutput bs).err = s.err := rfl
@[simp] theorem setOutput_kvalid : (s.setOutput bs).kvalid = s.kvalid := rfl
@[simp] theorem setOutput_pvalid : (s.setOutput bs).pvalid = s.pvalid := rfl
@[simp] theorem setOutput_errcode : (s.setOutput bs).errcode = s.errcode := rfl
@[simp] theorem setOutput_errinfo : (s.setOutput bs).errinfo = s.errinfo := rfl
@[simp] theorem setOutput_errcmd : (s.setOutput bs).errcmd = s.errcmd := rfl
@[simp] theorem setOutput_cfgWordsize : (s.setOutput bs).cfgWordsize = s.cfgWordsize := rfl
@[simp] theorem setOutput_cfgRounds : (s.setOutput bs).cfgRounds = s.cfgRounds := rfl
@[simp] theorem setOutput_cfgKlb : (s.setOutput bs).cfgKlb = s.cfgKlb := rfl
@[simp] theorem setOutput_keylen : (s.setOutput bs).keylen = s.keylen := rfl
@[simp] theorem setOutput_inlen : (s.setOutput bs).inlen = s.inlen := rfl
@[simp] theorem setOutput_outlen : (s.setOutput bs).outlen = BitVec.ofNat 32 bs.length := rfl
@[simp] theorem setOutput_wr0 : (s.setOutput bs).wr0 = s.wr0 := rfl
@[simp] theorem setOutput_wr1 : (s.setOutput bs).wr1 = s.wr1 := rfl
@[simp] theorem setOutput_wr2 : (s.setOutput bs).wr2 = s.wr2 := rfl
@[simp] theorem setOutput_wr3 : (s.setOutput bs).wr3 = s.wr3 := rfl
@[simp] theorem setOutput_lehA : (s.setOutput bs).lehA = s.lehA := rfl
@[simp] theorem setOutput_lehC : (s.setOutput bs).lehC = s.lehC := rfl
@[simp] theorem setOutput_lehM : (s.setOutput bs).lehM = s.lehM := rfl
@[simp] theorem setOutput_lehX0 : (s.setOutput bs).lehX0 = s.lehX0 := rfl
@[simp] theorem setOutput_lehCount : (s.setOutput bs).lehCount = s.lehCount := rfl
@[simp] theorem setOutput_lehSeqlen : (s.setOutput bs).lehSeqlen = s.lehSeqlen := rfl
@[simp] theorem setOutput_lehPeriod : (s.setOutput bs).lehPeriod = s.lehPeriod := rfl
@[simp] theorem setOutput_lehFirstocc : (s.setOutput bs).lehFirstocc = s.lehFirstocc := rfl
@[simp] theorem setOutput_lehProgress : (s.setOutput bs).lehProgress = s.lehProgress := rfl
@[simp] theorem setOutput_md5Acc : (s.setOutput bs).md5Acc = s.md5Acc := rfl
@[simp] theorem setOutput_keymem : (s.setOutput bs).keymem = s.keymem := rfl
@[simp] theorem setOutput_inmem : (s.setOutput bs).inmem = s.inmem := rfl
@[simp] theorem setOutput_outmem : (s.setOutput bs).outmem = memOfBytes 0 bs := rfl
@[simp] theorem setOutput_stab : (s.setOutput bs).stab = s.stab := rfl
@[simp] theorem setOutput_seqmem : (s.setOutput bs).seqmem = s.seqmem := rfl
@[simp] theorem setOutput_schedule : (s.setOutput bs).schedule = s.schedule := rfl
@[simp] theorem setOutput_hostData : (s.setOutput bs).hostData = s.hostData := rfl
@[simp] theorem setOutput_draws : (s.setOutput bs).draws = s.draws + 1 := rfl
@[simp] theorem setOutput_seen : (s.setOutput bs).seen = s.seen := rfl
@[simp] theorem setOutput_params : (s.setOutput bs).params = s.params := rfl

end SetOutputFields

section SetSequenceFields

variable (r : LehRun) (s : State)

@[simp] theorem setSequence_cmd : (s.setSequence r).cmd = s.cmd := rfl
@[simp] theorem setSequence_busy : (s.setSequence r).busy = s.busy := rfl
@[simp] theorem setSequence_done : (s.setSequence r).done = s.done := rfl
@[simp] theorem setSequence_err : (s.setSequence r).err = s.err := rfl
@[simp] theorem setSequence_kvalid : (s.setSequence r).kvalid = s.kvalid := rfl
@[simp] theorem setSequence_pvalid : (s.setSequence r).pvalid = r.found.isSome := rfl
@[simp] theorem setSequence_errcode : (s.setSequence r).errcode = s.errcode := rfl
@[simp] theorem setSequence_errinfo : (s.setSequence r).errinfo = s.errinfo := rfl
@[simp] theorem setSequence_errcmd : (s.setSequence r).errcmd = s.errcmd := rfl
@[simp] theorem setSequence_cfgWordsize : (s.setSequence r).cfgWordsize = s.cfgWordsize := rfl
@[simp] theorem setSequence_cfgRounds : (s.setSequence r).cfgRounds = s.cfgRounds := rfl
@[simp] theorem setSequence_cfgKlb : (s.setSequence r).cfgKlb = s.cfgKlb := rfl
@[simp] theorem setSequence_keylen : (s.setSequence r).keylen = s.keylen := rfl
@[simp] theorem setSequence_inlen : (s.setSequence r).inlen = s.inlen := rfl
@[simp] theorem setSequence_outlen : (s.setSequence r).outlen = s.outlen := rfl
@[simp] theorem setSequence_wr0 : (s.setSequence r).wr0 = s.wr0 := rfl
@[simp] theorem setSequence_wr1 : (s.setSequence r).wr1 = s.wr1 := rfl
@[simp] theorem setSequence_wr2 : (s.setSequence r).wr2 = s.wr2 := rfl
@[simp] theorem setSequence_wr3 : (s.setSequence r).wr3 = s.wr3 := rfl
@[simp] theorem setSequence_lehA : (s.setSequence r).lehA = s.lehA := rfl
@[simp] theorem setSequence_lehC : (s.setSequence r).lehC = s.lehC := rfl
@[simp] theorem setSequence_lehM : (s.setSequence r).lehM = s.lehM := rfl
@[simp] theorem setSequence_lehX0 : (s.setSequence r).lehX0 = s.lehX0 := rfl
@[simp] theorem setSequence_lehCount : (s.setSequence r).lehCount = s.lehCount := rfl
@[simp] theorem setSequence_lehSeqlen : (s.setSequence r).lehSeqlen = BitVec.ofNat 32 r.seq.length := rfl
@[simp] theorem setSequence_lehPeriod : (s.setSequence r).lehPeriod = match r.found with | some f => BitVec.ofNat 32 f.1 | none => 0 := rfl
@[simp] theorem setSequence_lehFirstocc : (s.setSequence r).lehFirstocc = match r.found with | some f => BitVec.ofNat 32 f.2 | none => 0 := rfl
@[simp] theorem setSequence_lehProgress : (s.setSequence r).lehProgress = BitVec.ofNat 7 r.progress := rfl
@[simp] theorem setSequence_md5Acc : (s.setSequence r).md5Acc = s.md5Acc := rfl
@[simp] theorem setSequence_keymem : (s.setSequence r).keymem = s.keymem := rfl
@[simp] theorem setSequence_inmem : (s.setSequence r).inmem = s.inmem := rfl
@[simp] theorem setSequence_outmem : (s.setSequence r).outmem = s.outmem := rfl
@[simp] theorem setSequence_stab : (s.setSequence r).stab = s.stab := rfl
@[simp] theorem setSequence_seqmem : (s.setSequence r).seqmem = r.seq.map (BitVec.ofNat 64) := rfl
@[simp] theorem setSequence_schedule : (s.setSequence r).schedule = s.schedule := rfl
@[simp] theorem setSequence_hostData : (s.setSequence r).hostData = s.hostData := rfl
@[simp] theorem setSequence_draws : (s.setSequence r).draws = s.draws + 1 := rfl
@[simp] theorem setSequence_seen : (s.setSequence r).seen = s.seen := rfl
@[simp] theorem setSequence_params : (s.setSequence r).params = s.params := rfl

end SetSequenceFields

section ErrorEntryFields

variable (t : Trap) (s : State)

@[simp] theorem errorEntry_cmd : (s.errorEntry t).cmd = s.cmd := rfl
@[simp] theorem errorEntry_busy : (s.errorEntry t).busy = false := rfl
@[simp] theorem errorEntry_done : (s.errorEntry t).done = false := rfl
@[simp] theorem errorEntry_err : (s.errorEntry t).err = true := rfl
@[simp] theorem errorEntry_kvalid : (s.errorEntry t).kvalid = s.kvalid := rfl
@[simp] theorem errorEntry_pvalid : (s.errorEntry t).pvalid = s.pvalid := rfl
@[simp] theorem errorEntry_errcode : (s.errorEntry t).errcode = t.err.code := rfl
@[simp] theorem errorEntry_errinfo : (s.errorEntry t).errinfo = t.info := rfl
@[simp] theorem errorEntry_errcmd : (s.errorEntry t).errcmd = s.cmd := rfl
@[simp] theorem errorEntry_cfgWordsize : (s.errorEntry t).cfgWordsize = s.cfgWordsize := rfl
@[simp] theorem errorEntry_cfgRounds : (s.errorEntry t).cfgRounds = s.cfgRounds := rfl
@[simp] theorem errorEntry_cfgKlb : (s.errorEntry t).cfgKlb = s.cfgKlb := rfl
@[simp] theorem errorEntry_keylen : (s.errorEntry t).keylen = s.keylen := rfl
@[simp] theorem errorEntry_inlen : (s.errorEntry t).inlen = s.inlen := rfl
@[simp] theorem errorEntry_outlen : (s.errorEntry t).outlen = s.outlen := rfl
@[simp] theorem errorEntry_wr0 : (s.errorEntry t).wr0 = s.wr0 := rfl
@[simp] theorem errorEntry_wr1 : (s.errorEntry t).wr1 = s.wr1 := rfl
@[simp] theorem errorEntry_wr2 : (s.errorEntry t).wr2 = s.wr2 := rfl
@[simp] theorem errorEntry_wr3 : (s.errorEntry t).wr3 = s.wr3 := rfl
@[simp] theorem errorEntry_lehA : (s.errorEntry t).lehA = s.lehA := rfl
@[simp] theorem errorEntry_lehC : (s.errorEntry t).lehC = s.lehC := rfl
@[simp] theorem errorEntry_lehM : (s.errorEntry t).lehM = s.lehM := rfl
@[simp] theorem errorEntry_lehX0 : (s.errorEntry t).lehX0 = s.lehX0 := rfl
@[simp] theorem errorEntry_lehCount : (s.errorEntry t).lehCount = s.lehCount := rfl
@[simp] theorem errorEntry_lehSeqlen : (s.errorEntry t).lehSeqlen = s.lehSeqlen := rfl
@[simp] theorem errorEntry_lehPeriod : (s.errorEntry t).lehPeriod = s.lehPeriod := rfl
@[simp] theorem errorEntry_lehFirstocc : (s.errorEntry t).lehFirstocc = s.lehFirstocc := rfl
@[simp] theorem errorEntry_lehProgress : (s.errorEntry t).lehProgress = s.lehProgress := rfl
@[simp] theorem errorEntry_md5Acc : (s.errorEntry t).md5Acc = s.md5Acc := rfl
@[simp] theorem errorEntry_keymem : (s.errorEntry t).keymem = s.keymem := rfl
@[simp] theorem errorEntry_inmem : (s.errorEntry t).inmem = s.inmem := rfl
@[simp] theorem errorEntry_outmem : (s.errorEntry t).outmem = s.outmem := rfl
@[simp] theorem errorEntry_stab : (s.errorEntry t).stab = s.stab := rfl
@[simp] theorem errorEntry_seqmem : (s.errorEntry t).seqmem = s.seqmem := rfl
@[simp] theorem errorEntry_schedule : (s.errorEntry t).schedule = s.schedule := rfl
@[simp] theorem errorEntry_hostData : (s.errorEntry t).hostData = s.hostData := rfl
@[simp] theorem errorEntry_draws : (s.errorEntry t).draws = s.draws := rfl
@[simp] theorem errorEntry_seen : (s.errorEntry t).seen = s.seen := rfl
@[simp] theorem errorEntry_params : (s.errorEntry t).params = s.params := rfl

end ErrorEntryFields

section ClearErrorFields

variable (s : State)

@[simp] theorem clearError_cmd : (s.clearError).cmd = s.cmd := rfl
@[simp] theorem clearError_busy : (s.clearError).busy = false := rfl
@[simp] theorem clearError_done : (s.clearError).done = false := rfl
@[simp] theorem clearError_err : (s.clearError).err = false := rfl
@[simp] theorem clearError_kvalid : (s.clearError).kvalid = s.kvalid := rfl
@[simp] theorem clearError_pvalid : (s.clearError).pvalid = s.pvalid := rfl
@[simp] theorem clearError_errcode : (s.clearError).errcode = 0 := rfl
@[simp] theorem clearError_errinfo : (s.clearError).errinfo = 0 := rfl
@[simp] theorem clearError_errcmd : (s.clearError).errcmd = 0 := rfl
@[simp] theorem clearError_cfgWordsize : (s.clearError).cfgWordsize = s.cfgWordsize := rfl
@[simp] theorem clearError_cfgRounds : (s.clearError).cfgRounds = s.cfgRounds := rfl
@[simp] theorem clearError_cfgKlb : (s.clearError).cfgKlb = s.cfgKlb := rfl
@[simp] theorem clearError_keylen : (s.clearError).keylen = s.keylen := rfl
@[simp] theorem clearError_inlen : (s.clearError).inlen = s.inlen := rfl
@[simp] theorem clearError_outlen : (s.clearError).outlen = s.outlen := rfl
@[simp] theorem clearError_wr0 : (s.clearError).wr0 = s.wr0 := rfl
@[simp] theorem clearError_wr1 : (s.clearError).wr1 = s.wr1 := rfl
@[simp] theorem clearError_wr2 : (s.clearError).wr2 = s.wr2 := rfl
@[simp] theorem clearError_wr3 : (s.clearError).wr3 = s.wr3 := rfl
@[simp] theorem clearError_lehA : (s.clearError).lehA = s.lehA := rfl
@[simp] theorem clearError_lehC : (s.clearError).lehC = s.lehC := rfl
@[simp] theorem clearError_lehM : (s.clearError).lehM = s.lehM := rfl
@[simp] theorem clearError_lehX0 : (s.clearError).lehX0 = s.lehX0 := rfl
@[simp] theorem clearError_lehCount : (s.clearError).lehCount = s.lehCount := rfl
@[simp] theorem clearError_lehSeqlen : (s.clearError).lehSeqlen = s.lehSeqlen := rfl
@[simp] theorem clearError_lehPeriod : (s.clearError).lehPeriod = s.lehPeriod := rfl
@[simp] theorem clearError_lehFirstocc : (s.clearError).lehFirstocc = s.lehFirstocc := rfl
@[simp] theorem clearError_lehProgress : (s.clearError).lehProgress = s.lehProgress := rfl
@[simp] theorem clearError_md5Acc : (s.clearError).md5Acc = s.md5Acc := rfl
@[simp] theorem clearError_keymem : (s.clearError).keymem = s.keymem := rfl
@[simp] theorem clearError_inmem : (s.clearError).inmem = s.inmem := rfl
@[simp] theorem clearError_outmem : (s.clearError).outmem = s.outmem := rfl
@[simp] theorem clearError_stab : (s.clearError).stab = s.stab := rfl
@[simp] theorem clearError_seqmem : (s.clearError).seqmem = s.seqmem := rfl
@[simp] theorem clearError_schedule : (s.clearError).schedule = s.schedule := rfl
@[simp] theorem clearError_hostData : (s.clearError).hostData = s.hostData := rfl
@[simp] theorem clearError_draws : (s.clearError).draws = s.draws := rfl
@[simp] theorem clearError_seen : (s.clearError).seen = s.seen := rfl
@[simp] theorem clearError_params : (s.clearError).params = s.params := rfl

end ClearErrorFields

section SetBufFields

variable (sp : Buf) (m : Memory) (s : State)

@[simp] theorem setBuf_cmd : (s.setBuf sp m).cmd = s.cmd := by cases sp <;> rfl
@[simp] theorem setBuf_busy : (s.setBuf sp m).busy = s.busy := by cases sp <;> rfl
@[simp] theorem setBuf_done : (s.setBuf sp m).done = s.done := by cases sp <;> rfl
@[simp] theorem setBuf_err : (s.setBuf sp m).err = s.err := by cases sp <;> rfl
@[simp] theorem setBuf_kvalid : (s.setBuf sp m).kvalid = s.kvalid := by cases sp <;> rfl
@[simp] theorem setBuf_pvalid : (s.setBuf sp m).pvalid = s.pvalid := by cases sp <;> rfl
@[simp] theorem setBuf_errcode : (s.setBuf sp m).errcode = s.errcode := by cases sp <;> rfl
@[simp] theorem setBuf_errinfo : (s.setBuf sp m).errinfo = s.errinfo := by cases sp <;> rfl
@[simp] theorem setBuf_errcmd : (s.setBuf sp m).errcmd = s.errcmd := by cases sp <;> rfl
@[simp] theorem setBuf_cfgWordsize : (s.setBuf sp m).cfgWordsize = s.cfgWordsize := by cases sp <;> rfl
@[simp] theorem setBuf_cfgRounds : (s.setBuf sp m).cfgRounds = s.cfgRounds := by cases sp <;> rfl
@[simp] theorem setBuf_cfgKlb : (s.setBuf sp m).cfgKlb = s.cfgKlb := by cases sp <;> rfl
@[simp] theorem setBuf_keylen : (s.setBuf sp m).keylen = s.keylen := by cases sp <;> rfl
@[simp] theorem setBuf_inlen : (s.setBuf sp m).inlen = s.inlen := by cases sp <;> rfl
@[simp] theorem setBuf_outlen : (s.setBuf sp m).outlen = s.outlen := by cases sp <;> rfl
@[simp] theorem setBuf_wr0 : (s.setBuf sp m).wr0 = s.wr0 := by cases sp <;> rfl
@[simp] theorem setBuf_wr1 : (s.setBuf sp m).wr1 = s.wr1 := by cases sp <;> rfl
@[simp] theorem setBuf_wr2 : (s.setBuf sp m).wr2 = s.wr2 := by cases sp <;> rfl
@[simp] theorem setBuf_wr3 : (s.setBuf sp m).wr3 = s.wr3 := by cases sp <;> rfl
@[simp] theorem setBuf_lehA : (s.setBuf sp m).lehA = s.lehA := by cases sp <;> rfl
@[simp] theorem setBuf_lehC : (s.setBuf sp m).lehC = s.lehC := by cases sp <;> rfl
@[simp] theorem setBuf_lehM : (s.setBuf sp m).lehM = s.lehM := by cases sp <;> rfl
@[simp] theorem setBuf_lehX0 : (s.setBuf sp m).lehX0 = s.lehX0 := by cases sp <;> rfl
@[simp] theorem setBuf_lehCount : (s.setBuf sp m).lehCount = s.lehCount := by cases sp <;> rfl
@[simp] theorem setBuf_lehSeqlen : (s.setBuf sp m).lehSeqlen = s.lehSeqlen := by cases sp <;> rfl
@[simp] theorem setBuf_lehPeriod : (s.setBuf sp m).lehPeriod = s.lehPeriod := by cases sp <;> rfl
@[simp] theorem setBuf_lehFirstocc : (s.setBuf sp m).lehFirstocc = s.lehFirstocc := by cases sp <;> rfl
@[simp] theorem setBuf_lehProgress : (s.setBuf sp m).lehProgress = s.lehProgress := by cases sp <;> rfl
@[simp] theorem setBuf_md5Acc : (s.setBuf sp m).md5Acc = s.md5Acc := by cases sp <;> rfl
@[simp] theorem setBuf_stab : (s.setBuf sp m).stab = s.stab := by cases sp <;> rfl
@[simp] theorem setBuf_seqmem : (s.setBuf sp m).seqmem = s.seqmem := by cases sp <;> rfl
@[simp] theorem setBuf_schedule : (s.setBuf sp m).schedule = s.schedule := by cases sp <;> rfl
@[simp] theorem setBuf_hostData : (s.setBuf sp m).hostData = s.hostData := by cases sp <;> rfl
@[simp] theorem setBuf_draws : (s.setBuf sp m).draws = s.draws := by cases sp <;> rfl
@[simp] theorem setBuf_seen : (s.setBuf sp m).seen = s.seen := by cases sp <;> rfl
@[simp] theorem setBuf_params : (s.setBuf sp m).params = s.params := by cases sp <;> rfl

@[simp] theorem setBuf_buf_self : (s.setBuf sp m).buf sp = m := by cases sp <;> rfl

@[simp] theorem setBuf_buf_ne (sq : Buf) (h : sq ≠ sp) : (s.setBuf sp m).buf sq = s.buf sq := by
  cases sp <;> cases sq <;> first | rfl | exact absurd rfl h

end SetBufFields

section SetWrFields

variable (r : WReg) (v : WordReg) (s : State)

@[simp] theorem setWr_cmd : (s.setWr r v).cmd = s.cmd := by cases r <;> rfl
@[simp] theorem setWr_busy : (s.setWr r v).busy = s.busy := by cases r <;> rfl
@[simp] theorem setWr_done : (s.setWr r v).done = s.done := by cases r <;> rfl
@[simp] theorem setWr_err : (s.setWr r v).err = s.err := by cases r <;> rfl
@[simp] theorem setWr_kvalid : (s.setWr r v).kvalid = s.kvalid := by cases r <;> rfl
@[simp] theorem setWr_pvalid : (s.setWr r v).pvalid = s.pvalid := by cases r <;> rfl
@[simp] theorem setWr_errcode : (s.setWr r v).errcode = s.errcode := by cases r <;> rfl
@[simp] theorem setWr_errinfo : (s.setWr r v).errinfo = s.errinfo := by cases r <;> rfl
@[simp] theorem setWr_errcmd : (s.setWr r v).errcmd = s.errcmd := by cases r <;> rfl
@[simp] theorem setWr_cfgWordsize : (s.setWr r v).cfgWordsize = s.cfgWordsize := by cases r <;> rfl
@[simp] theorem setWr_cfgRounds : (s.setWr r v).cfgRounds = s.cfgRounds := by cases r <;> rfl
@[simp] theorem setWr_cfgKlb : (s.setWr r v).cfgKlb = s.cfgKlb := by cases r <;> rfl
@[simp] theorem setWr_keylen : (s.setWr r v).keylen = s.keylen := by cases r <;> rfl
@[simp] theorem setWr_inlen : (s.setWr r v).inlen = s.inlen := by cases r <;> rfl
@[simp] theorem setWr_outlen : (s.setWr r v).outlen = s.outlen := by cases r <;> rfl
@[simp] theorem setWr_lehA : (s.setWr r v).lehA = s.lehA := by cases r <;> rfl
@[simp] theorem setWr_lehC : (s.setWr r v).lehC = s.lehC := by cases r <;> rfl
@[simp] theorem setWr_lehM : (s.setWr r v).lehM = s.lehM := by cases r <;> rfl
@[simp] theorem setWr_lehX0 : (s.setWr r v).lehX0 = s.lehX0 := by cases r <;> rfl
@[simp] theorem setWr_lehCount : (s.setWr r v).lehCount = s.lehCount := by cases r <;> rfl
@[simp] theorem setWr_lehSeqlen : (s.setWr r v).lehSeqlen = s.lehSeqlen := by cases r <;> rfl
@[simp] theorem setWr_lehPeriod : (s.setWr r v).lehPeriod = s.lehPeriod := by cases r <;> rfl
@[simp] theorem setWr_lehFirstocc : (s.setWr r v).lehFirstocc = s.lehFirstocc := by cases r <;> rfl
@[simp] theorem setWr_lehProgress : (s.setWr r v).lehProgress = s.lehProgress := by cases r <;> rfl
@[simp] theorem setWr_md5Acc : (s.setWr r v).md5Acc = s.md5Acc := by cases r <;> rfl
@[simp] theorem setWr_keymem : (s.setWr r v).keymem = s.keymem := by cases r <;> rfl
@[simp] theorem setWr_inmem : (s.setWr r v).inmem = s.inmem := by cases r <;> rfl
@[simp] theorem setWr_outmem : (s.setWr r v).outmem = s.outmem := by cases r <;> rfl
@[simp] theorem setWr_stab : (s.setWr r v).stab = s.stab := by cases r <;> rfl
@[simp] theorem setWr_seqmem : (s.setWr r v).seqmem = s.seqmem := by cases r <;> rfl
@[simp] theorem setWr_schedule : (s.setWr r v).schedule = s.schedule := by cases r <;> rfl
@[simp] theorem setWr_hostData : (s.setWr r v).hostData = s.hostData := by cases r <;> rfl
@[simp] theorem setWr_draws : (s.setWr r v).draws = s.draws := by cases r <;> rfl
@[simp] theorem setWr_seen : (s.setWr r v).seen = s.seen := by cases r <;> rfl
@[simp] theorem setWr_params : (s.setWr r v).params = s.params := by cases r <;> rfl

@[simp] theorem setWr_wr_self : (s.setWr r v).wr r = v := by cases r <;> rfl

@[simp] theorem setWr_wr_ne (q : WReg) (h : q ≠ r) : (s.setWr r v).wr q = s.wr q := by
  cases r <;> cases q <;> first | rfl | exact absurd rfl h

end SetWrFields

section Views

variable (s : State)

@[simp] theorem complete_buf (sp : Buf) : s.complete.buf sp = s.buf sp := by cases sp <;> rfl

@[simp] theorem errorEntry_buf (t : Trap) (sp : Buf) : (s.errorEntry t).buf sp = s.buf sp := by cases sp <;> rfl

@[simp] theorem clearError_buf (sp : Buf) : s.clearError.buf sp = s.buf sp := by cases sp <;> rfl

@[simp] theorem accept_buf (c : BitVec 32) (sp : Buf) : (s.accept c).buf sp = s.buf sp := by cases sp <;> rfl

@[simp] theorem setWr_buf (r : WReg) (v : WordReg) (sp : Buf) : (s.setWr r v).buf sp = s.buf sp := by
  cases r <;> cases sp <;> rfl

@[simp] theorem setBuf_wr (sp : Buf) (m : Memory) (r : WReg) : (s.setBuf sp m).wr r = s.wr r := by
  cases r <;> cases sp <;> rfl

@[simp] theorem complete_wr (r : WReg) : s.complete.wr r = s.wr r := by cases r <;> rfl

@[simp] theorem errorEntry_wr (t : Trap) (r : WReg) : (s.errorEntry t).wr r = s.wr r := by cases r <;> rfl

@[simp] theorem accept_wr (c : BitVec 32) (r : WReg) : (s.accept c).wr r = s.wr r := by cases r <;> rfl

end Views

end Sys2Proof.Machine
end

