-- ==== Sys2Proof/Laws/Memory.lean ====
section
/-! SUPPORT. The laws of the byte spaces: read after write, and that every memory operation keeps the canonical form. -/

namespace Sys2Proof.Machine

/-- Read after write: the written offset reads the byte, every other offset reads as before. -/
@[simp] theorem memGet_memSet (m : Memory) (a : Nat) (b : Byte) (x : Nat) :
    memGet (memSet m a b) x = if x = a then some b else memGet m x := by
  induction m with
  | nil => simp [memSet, memGet]
  | cons c m ih =>
    obtain ⟨k, y⟩ := c
    unfold memSet
    split
    · simp [memGet]
    · split
      · rename_i h
        subst h
        by_cases hx : x = a <;> simp [memGet, hx]
      · rename_i h1 h2
        by_cases hx : x = k
        · subst hx
          simp [memGet, Ne.symm h2]
        · simp [memGet, hx, ih]

/-- What a run of written bytes reads as: inside, the byte at its place; outside, as before. -/
theorem memGet_memSetBytes (m : Memory) (a : Nat) (bs : List Byte) (x : Nat) :
    memGet (memSetBytes m a bs) x =
      if a ≤ x ∧ x < a + bs.length then bs[x - a]? else memGet m x := by
  induction bs generalizing m a with
  | nil =>
    simp only [memSetBytes, List.length_nil]
    rw [if_neg (by omega)]
  | cons b bs ih =>
    simp only [memSetBytes, ih, memGet_memSet, List.length_cons]
    by_cases hx : x = a
    · subst hx
      rw [if_neg (by omega), if_pos rfl, if_pos (by omega)]
      simp
    · by_cases hin : a + 1 ≤ x ∧ x < a + 1 + bs.length
      · rw [if_pos hin, if_pos (by omega)]
        obtain ⟨d, rfl⟩ : ∃ d, x = a + 1 + d := ⟨x - (a + 1), by omega⟩
        rw [show a + 1 + d - (a + 1) = d by omega, show a + 1 + d - a = d + 1 by omega]
        simp
      · rw [if_neg hin, if_neg hx, if_neg (by omega)]

/-- The space that holds exactly the given bytes reads them, and nothing elsewhere. -/
theorem memGet_memOfBytes (a : Nat) (bs : List Byte) (x : Nat) :
    memGet (memOfBytes a bs) x = if a ≤ x then bs[x - a]? else none := by
  induction bs generalizing a with
  | nil => simp [memOfBytes, memGet]
  | cons b bs ih =>
    simp only [memOfBytes, memGet, ih]
    by_cases hx : x = a
    · subst hx
      simp
    · by_cases h : a + 1 ≤ x
      · rw [if_neg hx, if_pos h, if_pos (by omega)]
        obtain ⟨d, rfl⟩ : ∃ d, x = a + 1 + d := ⟨x - (a + 1), by omega⟩
        rw [show a + 1 + d - (a + 1) = d by omega, show a + 1 + d - a = d + 1 by omega]
        simp
      · rw [if_neg hx, if_neg h, if_neg (by omega)]

/-- The offsets after a write are the old ones and the written one. -/
theorem mem_memSet {m : Memory} {a : Nat} {b : Byte} {c : Host.Cell} (h : c ∈ memSet m a b) : c = (a, b) ∨ c ∈ m := by
  induction m with
  | nil => simpa [memSet] using h
  | cons d m ih =>
    obtain ⟨k, y⟩ := d
    unfold memSet at h
    split at h
    · simpa using h
    · split at h
      · rcases List.mem_cons.mp h with h | h
        · exact .inl h
        · exact .inr (List.mem_cons_of_mem _ h)
      · rcases List.mem_cons.mp h with h | h
        · exact .inr (h ▸ List.mem_cons_self)
        · rcases ih h with h | h
          · exact .inl h
          · exact .inr (List.mem_cons_of_mem _ h)

/-- A write keeps the canonical form. -/
theorem memWf_memSet {m : Memory} (h : memWf m) (a : Nat) (b : Byte) : memWf (memSet m a b) := by
  induction m with
  | nil => simp [memSet, memWf]
  | cons c m ih =>
    obtain ⟨k, y⟩ := c
    rw [memWf, List.pairwise_cons] at h
    obtain ⟨hk, hm⟩ := h
    unfold memSet
    split
    · rename_i hlt
      refine List.pairwise_cons.mpr ⟨fun c hc => ?_, List.pairwise_cons.mpr ⟨hk, hm⟩⟩
      rcases List.mem_cons.mp hc with rfl | hc
      · exact hlt
      · exact Nat.lt_trans hlt (hk c hc)
    · split
      · rename_i heq
        subst heq
        exact List.pairwise_cons.mpr ⟨hk, hm⟩
      · refine List.pairwise_cons.mpr ⟨fun c hc => ?_, ih hm⟩
        rcases mem_memSet hc with rfl | hc
        · show k < a
          omega
        · exact hk c hc

/-- A run of writes keeps the canonical form. -/
theorem memWf_memSetBytes {m : Memory} (h : memWf m) (a : Nat) (bs : List Byte) : memWf (memSetBytes m a bs) := by
  induction bs generalizing m a with
  | nil => exact h
  | cons b bs ih => exact ih (memWf_memSet h a b) (a + 1)

/-- The offsets after a run of writes are the old ones and those of the run. -/
theorem mem_memSetBytes {m : Memory} {a : Nat} {bs : List Byte} {c : Host.Cell} (h : c ∈ memSetBytes m a bs) :
    c ∈ m ∨ a ≤ c.1 ∧ c.1 < a + bs.length := by
  induction bs generalizing m a with
  | nil => exact .inl h
  | cons b bs ih =>
    rcases ih h with h | ⟨h1, h2⟩
    · rcases mem_memSet h with rfl | h
      · exact .inr ⟨Nat.le_refl _, by simp⟩
      · exact .inl h
    · exact .inr ⟨by omega, by simp only [List.length_cons]; omega⟩

/-- The offsets of the space that holds exactly the given bytes. -/
theorem mem_memOfBytes {a : Nat} {bs : List Byte} {c : Host.Cell} (h : c ∈ memOfBytes a bs) :
    a ≤ c.1 ∧ c.1 < a + bs.length := by
  induction bs generalizing a with
  | nil => simp [memOfBytes] at h
  | cons b bs ih =>
    rcases List.mem_cons.mp h with rfl | h
    · exact ⟨Nat.le_refl _, by simp⟩
    · have := ih h
      simp only [List.length_cons]
      omega

/-- The space that holds exactly the given bytes is in canonical form. -/
theorem memWf_memOfBytes (a : Nat) (bs : List Byte) : memWf (memOfBytes a bs) := by
  induction bs generalizing a with
  | nil => exact List.Pairwise.nil
  | cons b bs ih => exact List.pairwise_cons.mpr ⟨fun c hc => (mem_memOfBytes hc).1, ih (a + 1)⟩

/-- Every byte space is in canonical form after reset. -/
theorem memWf_reset (sp : Buf) : memWf (State.reset.buf sp) := by cases sp <;> exact List.Pairwise.nil

end Sys2Proof.Machine
end

