-- ==== Sys2Proof/Laws/Ops.lean ====
section
/-! SUPPORT. What the shared operations and checks can do, said once: when a check passes, when it fails and with what,
and how a command ends. -/

namespace Sys2Proof.Machine

/-- A command that ends either completed or entered the error its check named. -/
theorem finish_eq_next {r : Except Trap State} {s t : State} :
    finish r s = .next t ↔ (∃ u, r = .ok u ∧ t = u.complete) ∨ (∃ e, r = .error e ∧ t = s.errorEntry e) := by
  cases r with
  | ok u => simp [finish, eq_comm]
  | error e => simp [finish, eq_comm]

@[simp] theorem finish_ok (u s : State) : finish (.ok u) s = .next u.complete := rfl

@[simp] theorem finish_error (e : Trap) (s : State) : finish (.error e) s = .next (s.errorEntry e) := rfl

/-- A chain of checks passes exactly when each passes. -/
theorem bind_eq_ok {α β : Type} {x : Except Trap α} {f : α → Except Trap β} {b : β} :
    (x >>= f) = .ok b ↔ ∃ a, x = .ok a ∧ f a = .ok b := by
  cases x <;> simp [bind, Except.bind]

/-- A chain of checks fails with the first failure. -/
theorem bind_eq_error {α β : Type} {x : Except Trap α} {f : α → Except Trap β} {e : Trap} :
    (x >>= f) = .error e ↔ x = .error e ∨ ∃ a, x = .ok a ∧ f a = .error e := by
  cases x <;> simp [bind, Except.bind]

@[simp] theorem ok_bind {α β : Type} (a : α) (f : α → Except Trap β) : (Except.ok a >>= f) = f a := rfl

@[simp] theorem error_bind {α β : Type} (e : Trap) (f : α → Except Trap β) :
    ((Except.error e : Except Trap α) >>= f) = .error e := rfl

/-- CFG_WORDSIZE names a width exactly when it holds its number of bits (rule R27). -/
theorem widthOf_eq_some {b : BitVec 8} {w : Width} : widthOf b = some w ↔ b = BitVec.ofNat 8 w.bits := by
  unfold widthOf
  constructor
  · intro h
    split at h
    · rename_i hb
      cases h
      exact hb
    · split at h
      · rename_i hb
        cases h
        exact hb
      · split at h
        · rename_i hb
          cases h
          exact hb
        · cases h
  · rintro rfl
    cases w <;> rfl

/-- The width check passes exactly on a supported width. -/
theorem checkWidth_eq_ok {s : State} {w : Width} : checkWidth s = .ok w ↔ s.cfgWordsize = BitVec.ofNat 8 w.bits := by
  rw [← widthOf_eq_some]
  unfold checkWidth
  cases widthOf s.cfgWordsize <;> simp

/-- The width check fails with ConfigurationError(1), on an unsupported width only. -/
theorem checkWidth_eq_error {s : State} {e : Trap} :
    checkWidth s = .error e ↔ widthOf s.cfgWordsize = none ∧ e = ⟨.configuration, 1⟩ := by
  unfold checkWidth
  cases widthOf s.cfgWordsize <;> simp [eq_comm]

theorem checkCipherConfig_eq_ok {s : State} {w : Width} :
    checkCipherConfig s = .ok w ↔ s.cfgWordsize = BitVec.ofNat 8 w.bits ∧ s.cfgRounds ≠ 0 := by
  rw [← checkWidth_eq_ok]
  unfold checkCipherConfig
  cases checkWidth s with
  | error e => simp
  | ok v =>
    simp only [Except.ok.injEq]
    split
    · rename_i h
      simp [h]
    · rename_i h
      simp only [Except.ok.injEq, h, ne_eq, not_false_eq_true, and_true]

theorem checkKey_eq_ok {s : State} {u : Unit} :
    checkKey s = .ok u ↔ s.keylen.toNat ≠ 0 ∧ s.keylen.toNat ≤ s.params.keyMax := by
  unfold checkKey
  by_cases h : s.keylen.toNat = 0
  · rw [if_pos h]
    simp [h]
  · by_cases h2 : s.keylen.toNat > s.params.keyMax
    · rw [if_neg h, if_pos h2]
      simp only [reduceCtorEq, false_iff]
      omega
    · rw [if_neg h, if_neg h2]
      simp only [true_iff]
      omega

theorem checkCapacity_eq_ok {s : State} {sp : Buf} {u : Unit} : checkCapacity s sp = .ok u ↔ s.blen sp ≤ bufCap s.params sp := by
  unfold checkCapacity
  split <;> simp <;> omega

theorem checkCapacity_eq_error {s : State} {sp : Buf} {e : Trap} :
    checkCapacity s sp = .error e ↔ bufCap s.params sp < s.blen sp ∧ e = ⟨.length, lengthCause sp⟩ := by
  unfold checkCapacity
  split <;> simp [eq_comm] <;> omega

theorem checkBounds_eq_ok {s : State} {sp : Buf} {a k : Nat} {u : Unit} :
    checkBounds s sp a k = .ok u ↔ a + k ≤ s.blen sp := by
  unfold checkBounds
  split <;> simp <;> omega

theorem checkBounds_eq_error {s : State} {sp : Buf} {a k : Nat} {e : Trap} :
    checkBounds s sp a k = .error e ↔ s.blen sp < a + k ∧ e = ⟨.bufferTooShort, BitVec.ofNat 32 a⟩ := by
  unfold checkBounds
  split <;> simp [eq_comm] <;> omega

theorem checkTable_eq_ok {s : State} {u : Unit} : checkTable s = .ok u ↔ s.kvalid = true := by
  unfold checkTable
  split <;> simp_all

/-- An operand is read exactly under its tag (rule R120). -/
theorem readWord_eq_ok {w : Width} {s : State} {r : WReg} {v : Word w} :
    readWord w s r = .ok v ↔ ∃ x, s.wr r = .tagged w x ∧ v = x.setWidth w.bits := by
  unfold readWord
  cases s.wr r with
  | untagged => simp
  | tagged t x =>
    by_cases h : t = w
    · subst h
      simp [eq_comm]
    · simp [h]

/-- An operand read fails with WidthMismatch and the register's number (rules R120, R277). -/
theorem readWord_eq_error {w : Width} {s : State} {r : WReg} {e : Trap} :
    readWord w s r = .error e ↔
      (∀ x, s.wr r ≠ .tagged w x) ∧ e = ⟨.widthMismatch, BitVec.ofNat 32 r.number⟩ := by
  unfold readWord
  cases s.wr r with
  | untagged => simp [eq_comm]
  | tagged t x =>
    by_cases h : t = w
    · subst h
      simp
    · have hx : ∀ y, WordReg.tagged t x ≠ .tagged w y := fun y hy => h (WordReg.tagged.inj hy).1
      simp only [if_neg h, Except.error.injEq]
      exact ⟨fun he => ⟨hx, he.symm⟩, fun he => he.2.symm⟩

theorem checkLehmer_eq_ok {s : State} {u : Unit} :
    checkLehmer s = .ok u ↔ s.lehM ≠ 0 ∧ s.lehCount.toNat ≠ 0 ∧ s.lehCount.toNat ≤ s.params.seqMax := by
  unfold checkLehmer
  by_cases h : s.lehM = 0
  · rw [if_pos h]
    simp [h]
  · by_cases h2 : s.lehCount.toNat = 0
    · rw [if_neg h, if_pos h2]
      simp [h2]
    · by_cases h3 : s.lehCount.toNat > s.params.seqMax
      · rw [if_neg h, if_neg h2, if_pos h3]
        simp only [reduceCtorEq, false_iff]
        omega
      · rw [if_neg h, if_neg h2, if_neg h3]
        simp only [true_iff]
        exact ⟨h, h2, by omega⟩

/-- LEH_GEN fails by the first of its three checks that does not hold (rule R151). -/
theorem checkLehmer_eq_error {s : State} {e : Trap} :
    checkLehmer s = .error e ↔
      (s.lehM = 0 ∧ e = ⟨.configuration, 3⟩) ∨ (s.lehM ≠ 0 ∧ s.lehCount.toNat = 0 ∧ e = ⟨.length, 4⟩) ∨
        (s.lehM ≠ 0 ∧ s.params.seqMax < s.lehCount.toNat ∧ e = ⟨.length, 5⟩) := by
  unfold checkLehmer
  by_cases h : s.lehM = 0
  · rw [if_pos h]
    simp only [Except.error.injEq]
    exact ⟨fun q => .inl ⟨h, q.symm⟩, fun q => by rcases q with q | q | q <;> first | exact q.2.symm | exact absurd h q.1⟩
  · rw [if_neg h]
    by_cases hc : s.lehCount.toNat = 0
    · rw [if_pos hc]
      simp only [Except.error.injEq]
      refine ⟨fun q => .inr (.inl ⟨h, hc, q.symm⟩), fun q => ?_⟩
      rcases q with q | q | q
      · exact absurd q.1 h
      · exact q.2.2.symm
      · omega
    · rw [if_neg hc]
      by_cases hx : s.lehCount.toNat > s.params.seqMax
      · rw [if_pos hx]
        simp only [Except.error.injEq]
        refine ⟨fun q => .inr (.inr ⟨h, hx, q.symm⟩), fun q => ?_⟩
        rcases q with q | q | q
        · exact absurd q.1 h
        · exact absurd q.2.1 hc
        · exact q.2.2.symm
      · rw [if_neg hx]
        refine ⟨fun q => (by cases q), fun q => ?_⟩
        rcases q with q | q | q
        · exact absurd q.1 h
        · exact absurd q.2.1 hc
        · exact absurd q.2.1 hx

theorem checkExpand_eq_ok {s : State} {w : Width} :
    checkExpand s = .ok w ↔
      s.cfgWordsize = BitVec.ofNat 8 w.bits ∧ s.cfgRounds ≠ 0 ∧ s.keylen.toNat ≠ 0 ∧
        s.keylen.toNat ≤ s.params.keyMax := by
  have hk : checkKey s = .ok () ↔ _ := checkKey_eq_ok
  rw [← hk, ← and_assoc, ← checkCipherConfig_eq_ok]
  unfold checkExpand
  cases checkCipherConfig s with
  | error e => simp
  | ok v => cases checkKey s <;> simp

theorem checkBlock_eq_ok {s : State} {sp : Buf} {off : Nat} {w : Width} :
    checkBlock s sp off = .ok w ↔
      s.cfgWordsize = BitVec.ofNat 8 w.bits ∧ s.cfgRounds ≠ 0 ∧ s.blen sp ≤ bufCap s.params sp ∧ s.kvalid = true ∧
        off + w.blockBytes ≤ s.blen sp := by
  simp only [checkBlock, bind_eq_ok, checkCipherConfig_eq_ok, checkCapacity_eq_ok, checkTable_eq_ok,
    checkBounds_eq_ok, pure, Except.pure, Except.ok.injEq]
  constructor
  · rintro ⟨v, ⟨h1, h2⟩, _, h3, _, h4, _, h5, rfl⟩
    exact ⟨h1, h2, h3, h4, h5⟩
  · rintro ⟨h1, h2, h3, h4, h5⟩
    exact ⟨w, ⟨h1, h2⟩, (), h3, (), h4, (), h5, rfl⟩

theorem checkEncode_eq_ok {s : State} {w : Width} :
    checkEncode s = .ok w ↔
      s.cfgWordsize = BitVec.ofNat 8 w.bits ∧ s.cfgRounds ≠ 0 ∧
        w.blockBytes ≤ s.params.ivValueBytes * s.cfgKlb.toNat ∧ s.keylen.toNat ≠ 0 ∧
        s.keylen.toNat ≤ s.params.keyMax ∧ s.inlen.toNat ≤ s.params.bufMax := by
  have hiv : ∀ (v : Width) (u : Unit), checkIv v s = .ok u ↔ v.blockBytes ≤ s.params.ivValueBytes * s.cfgKlb.toNat := by
    intro v u
    unfold checkIv
    split <;> simp <;> omega
  simp only [checkEncode, bind_eq_ok, checkCipherConfig_eq_ok, hiv, checkKey_eq_ok, checkCapacity_eq_ok,
    pure, Except.pure, Except.ok.injEq, State.blen, bufCap]
  constructor
  · rintro ⟨v, ⟨h1, h2⟩, _, h3, _, ⟨h4, h5⟩, _, h6, rfl⟩
    exact ⟨h1, h2, h3, h4, h5, h6⟩
  · rintro ⟨h1, h2, h3, h4, h5, h6⟩
    exact ⟨w, ⟨h1, h2⟩, (), h3, (), ⟨h4, h5⟩, (), h6, rfl⟩

theorem checkDecode_eq_ok {s : State} {w : Width} :
    checkDecode s = .ok w ↔
      s.cfgWordsize = BitVec.ofNat 8 w.bits ∧ s.cfgRounds ≠ 0 ∧ s.keylen.toNat ≠ 0 ∧
        s.keylen.toNat ≤ s.params.keyMax ∧ s.inlen.toNat ≤ s.params.bufMax ∧ w.blockBytes ≤ s.inlen.toNat ∧
        s.inlen.toNat % w.blockBytes = 0 := by
  have hct : ∀ (bb n : Nat) (u : Unit), checkCiphertext bb n = .ok u ↔ bb ≤ n ∧ n % bb = 0 := by
    intro bb n u
    unfold checkCiphertext
    split
    · simp only [reduceCtorEq, false_iff]
      omega
    · split <;> simp <;> omega
  simp only [checkDecode, bind_eq_ok, checkCipherConfig_eq_ok, hct, checkKey_eq_ok, checkCapacity_eq_ok,
    pure, Except.pure, Except.ok.injEq, State.blen, bufCap]
  constructor
  · rintro ⟨v, ⟨h1, h2⟩, _, ⟨h3, h4⟩, _, h5, _, ⟨h6, h7⟩, rfl⟩
    exact ⟨h1, h2, h3, h4, h5, h6, h7⟩
  · rintro ⟨h1, h2, h3, h4, h5, h6, h7⟩
    exact ⟨w, ⟨h1, h2⟩, (), ⟨h3, h4⟩, (), h5, (), ⟨h6, h7⟩, rfl⟩

end Sys2Proof.Machine
end

