-- ==== Sys2Proof/Laws/Exec.lean ====
section
/-! SUPPORT. No command stops: every meaning answers a next state, by success or by error entry (rules R262, R280). -/

namespace Sys2Proof.Machine

/-- The end of a command is a next state. -/
theorem finish_next (r : Except Trap State) (s : State) : ∃ t, finish r s = .next t := by
  cases r with
  | ok u => exact ⟨_, rfl⟩
  | error e => exact ⟨_, rfl⟩

/-- Every command answers a next state, whatever the state (rules R262, R331). -/
theorem exec_next (i : Instr) (s : State) : ∃ t, exec i s = .next t := by
  cases i with
  | sysNop => exact ⟨_, rfl⟩
  | sysClear => exact ⟨_, rfl⟩
  | md5Init => exact ⟨_, rfl⟩
  | rc5Decode =>
    simp only [exec, execRc5Decode]
    split
    · exact ⟨_, rfl⟩
    · split <;> exact ⟨_, rfl⟩
  | _ => exact finish_next _ _

end Sys2Proof.Machine
end

