-- ==== Sys2Proof/Laws/PerInstr.lean ====
section
/-! SUPPORT. The fields of every command's word: what the encoder puts into opc, ra, rb and imm16 (rule R100), command by
command. -/

namespace Sys2Proof

theorem fieldOpc_wordOf (o : BitVec 8) (a b : Nat) (m : BitVec 16) : fieldOpc (wordOf o a b m) = o := by
  unfold fieldOpc wordOf
  ext j hj
  simp only [BitVec.getElem_extractLsb', BitVec.getLsbD_append]
  simp [hj, ← BitVec.getLsbD_eq_getElem]

theorem fieldRa_wordOf (o : BitVec 8) (a b : Nat) (m : BitVec 16) : fieldRa (wordOf o a b m) = BitVec.ofNat 4 a := by
  unfold fieldRa wordOf
  ext j hj
  simp only [BitVec.getElem_extractLsb', BitVec.getLsbD_append]
  simp [show ¬(8 + j < 8) by omega, hj, ← BitVec.getLsbD_eq_getElem]

theorem fieldRb_wordOf (o : BitVec 8) (a b : Nat) (m : BitVec 16) : fieldRb (wordOf o a b m) = BitVec.ofNat 4 b := by
  unfold fieldRb wordOf
  ext j hj
  simp only [BitVec.getElem_extractLsb', BitVec.getLsbD_append]
  simp [show ¬(12 + j < 8) by omega, show ¬(12 + j - 8 < 4) by omega,
    show 12 + j - 8 - 4 = j by omega, hj, ← BitVec.getLsbD_eq_getElem]

theorem fieldImm_wordOf (o : BitVec 8) (a b : Nat) (m : BitVec 16) : fieldImm (wordOf o a b m) = m := by
  unfold fieldImm wordOf
  ext j hj
  simp only [BitVec.getElem_extractLsb', BitVec.getLsbD_append]
  simp [show ¬(16 + j < 8) by omega, show ¬(16 + j - 8 < 4) by omega, show ¬(16 + j - 8 - 4 < 4) by omega,
    show 16 + j - 8 - 4 - 4 = j by omega, ← BitVec.getLsbD_eq_getElem]

/-- The fields of a word put together from four fields. -/
theorem fields_wordOf (o : BitVec 8) (a b : Nat) (m : BitVec 16) :
    fieldOpc (wordOf o a b m) = o ∧ fieldRa (wordOf o a b m) = BitVec.ofNat 4 a ∧
      fieldRb (wordOf o a b m) = BitVec.ofNat 4 b ∧ fieldImm (wordOf o a b m) = m :=
  ⟨fieldOpc_wordOf o a b m, fieldRa_wordOf o a b m, fieldRb_wordOf o a b m, fieldImm_wordOf o a b m⟩

namespace Laws.EncodeFields

/-- The opc, ra, rb and imm16 fields of a command (rules R90, R96). -/
def fieldsOf : Instr → BitVec 8 × Nat × Nat × BitVec 16
  | .sysNop => (0x00#8, 0, 0, 0)
  | .sysClear => (0x01#8, 0, 0, 0)
  | .wLd ra sp off => (0x10#8, ra.number, sp.code, off)
  | .wSt ra sp off => (0x11#8, ra.number, sp.code, off)
  | .wMov ra rb => (0x12#8, ra.number, rb.number, 0)
  | .wAdd ra rb => (0x13#8, ra.number, rb.number, 0)
  | .wSub ra rb => (0x14#8, ra.number, rb.number, 0)
  | .wXor ra rb => (0x15#8, ra.number, rb.number, 0)
  | .wAddb ra n => (0x16#8, ra.number, 0, n)
  | .wRol ra n => (0x17#8, ra.number, 0, n)
  | .wRor ra n => (0x18#8, ra.number, 0, n)
  | .wRolv ra rb => (0x19#8, ra.number, rb.number, 0)
  | .wRorv ra rb => (0x1A#8, ra.number, rb.number, 0)
  | .lehGen => (0x20#8, 0, 0, 0)
  | .md5Init => (0x30#8, 0, 0, 0)
  | .md5Block sp off => (0x31#8, 0, sp.code, off)
  | .md5Digest => (0x32#8, 0, 0, 0)
  | .md5Hex => (0x33#8, 0, 0, 0)
  | .rc5Expand => (0x40#8, 0, 0, 0)
  | .rc5Encblk sp off => (0x41#8, 0, sp.code, off)
  | .rc5Decblk sp off => (0x42#8, 0, sp.code, off)
  | .rc5Encode => (0x43#8, 0, 0, 0)
  | .rc5Decode => (0x44#8, 0, 0, 0)

/-- The encoder puts exactly these fields into the word. -/
def Statement (i : Instr) : Prop :=
  fieldOpc (encode i) = (fieldsOf i).1 ∧ fieldRa (encode i) = BitVec.ofNat 4 (fieldsOf i).2.1 ∧
    fieldRb (encode i) = BitVec.ofNat 4 (fieldsOf i).2.2.1 ∧ fieldImm (encode i) = (fieldsOf i).2.2.2

theorem sysNop : Statement (.sysNop) := fields_wordOf _ _ _ _

theorem sysClear : Statement (.sysClear) := fields_wordOf _ _ _ _

theorem wLd (ra : WReg) (sp : Buf) (off : BitVec 16) : Statement (.wLd ra sp off) := fields_wordOf _ _ _ _

theorem wSt (ra : WReg) (sp : Buf) (off : BitVec 16) : Statement (.wSt ra sp off) := fields_wordOf _ _ _ _

theorem wMov (ra : WReg) (rb : WReg) : Statement (.wMov ra rb) := fields_wordOf _ _ _ _

theorem wAdd (ra : WReg) (rb : WReg) : Statement (.wAdd ra rb) := fields_wordOf _ _ _ _

theorem wSub (ra : WReg) (rb : WReg) : Statement (.wSub ra rb) := fields_wordOf _ _ _ _

theorem wXor (ra : WReg) (rb : WReg) : Statement (.wXor ra rb) := fields_wordOf _ _ _ _

theorem wAddb (ra : WReg) (n : BitVec 16) : Statement (.wAddb ra n) := fields_wordOf _ _ _ _

theorem wRol (ra : WReg) (n : BitVec 16) : Statement (.wRol ra n) := fields_wordOf _ _ _ _

theorem wRor (ra : WReg) (n : BitVec 16) : Statement (.wRor ra n) := fields_wordOf _ _ _ _

theorem wRolv (ra : WReg) (rb : WReg) : Statement (.wRolv ra rb) := fields_wordOf _ _ _ _

theorem wRorv (ra : WReg) (rb : WReg) : Statement (.wRorv ra rb) := fields_wordOf _ _ _ _

theorem lehGen : Statement (.lehGen) := fields_wordOf _ _ _ _

theorem md5Init : Statement (.md5Init) := fields_wordOf _ _ _ _

theorem md5Block (sp : Buf) (off : BitVec 16) : Statement (.md5Block sp off) := fields_wordOf _ _ _ _

theorem md5Digest : Statement (.md5Digest) := fields_wordOf _ _ _ _

theorem md5Hex : Statement (.md5Hex) := fields_wordOf _ _ _ _

theorem rc5Expand : Statement (.rc5Expand) := fields_wordOf _ _ _ _

theorem rc5Encblk (sp : Buf) (off : BitVec 16) : Statement (.rc5Encblk sp off) := fields_wordOf _ _ _ _

theorem rc5Decblk (sp : Buf) (off : BitVec 16) : Statement (.rc5Decblk sp off) := fields_wordOf _ _ _ _

theorem rc5Encode : Statement (.rc5Encode) := fields_wordOf _ _ _ _

theorem rc5Decode : Statement (.rc5Decode) := fields_wordOf _ _ _ _

end Laws.EncodeFields

end Sys2Proof
end

