-- ==== Sys2Proof/Laws/Run.lean ====
section
/-! SUPPORT. The run of a host script (rule R17): what every move keeps, and that every script of moves with a meaning
ends (rule R331). -/

namespace Sys2Proof.Machine

/-- What no command touches: the moves to come, the parameters and what the host has read; and BUSY is 0 at its end
(rule R262). -/
structure State.Kept (s t : State) : Prop where
  busy : t.busy = false
  schedule : t.schedule = s.schedule
  params : t.params = s.params
  hostData : t.hostData = s.hostData

theorem complete_kept {s u : State} (h1 : u.schedule = s.schedule) (h2 : u.params = s.params)
    (h3 : u.hostData = s.hostData) : s.Kept u.complete := ⟨rfl, h1, h2, h3⟩

theorem errorEntry_kept {s u : State} (t : Trap) (h1 : u.schedule = s.schedule) (h2 : u.params = s.params)
    (h3 : u.hostData = s.hostData) : s.Kept (u.errorEntry t) := ⟨rfl, h1, h2, h3⟩

/-- A command keeps what its successful end keeps. -/
theorem finish_kept {r : Except Trap State} {s t : State} (h : finish r s = .next t)
    (hr : ∀ u, r = .ok u → u.schedule = s.schedule ∧ u.params = s.params ∧ u.hostData = s.hostData) : s.Kept t := by
  rcases finish_eq_next.mp h with ⟨u, hu, rfl⟩ | ⟨e, -, rfl⟩
  · obtain ⟨h1, h2, h3⟩ := hr u hu
    exact complete_kept h1 h2 h3
  · exact errorEntry_kept e rfl rfl rfl

/-- A word command's new state, if it comes to one, is the old one with a word register written. -/
theorem wordBinary_eq_ok {f : (w : Width) → Word w → Word w → Word w} {ra rb : WReg} {s u : State}
    (h : wordBinary f ra rb s = .ok u) :
    ∃ w a b, checkWidth s = .ok w ∧ readWord w s ra = .ok a ∧ readWord w s rb = .ok b ∧
      u = s.setWord w ra (f w a b) := by
  simp only [wordBinary, bind_eq_ok, pure, Except.pure, Except.ok.injEq] at h
  obtain ⟨w, hw, a, ha, b, hb, hu⟩ := h
  exact ⟨w, a, b, hw, ha, hb, hu.symm⟩

theorem wordUnary_eq_ok {f : (w : Width) → Word w → Word w} {ra : WReg} {s u : State}
    (h : wordUnary f ra s = .ok u) :
    ∃ w a, checkWidth s = .ok w ∧ readWord w s ra = .ok a ∧ u = s.setWord w ra (f w a) := by
  simp only [wordUnary, bind_eq_ok, pure, Except.pure, Except.ok.injEq] at h
  obtain ⟨w, hw, a, ha, hu⟩ := h
  exact ⟨w, a, hw, ha, hu.symm⟩

/-- What every command keeps. -/
theorem exec_kept {i : Instr} {s t : State} (h : exec i s = .next t) : s.Kept t := by
  cases i
  case sysNop => cases h; exact complete_kept rfl rfl rfl
  case sysClear => cases h; exact ⟨rfl, rfl, rfl, rfl⟩
  case md5Init => cases h; exact complete_kept rfl rfl rfl
  case rc5Decode =>
    simp only [exec, execRc5Decode] at h
    split at h
    · cases h; exact errorEntry_kept _ rfl rfl rfl
    · split at h <;> cases h
      · exact complete_kept rfl rfl rfl
      · exact errorEntry_kept _ rfl rfl rfl
  case wAdd | wSub | wXor | wRolv | wRorv =>
    refine finish_kept h fun u hu => ?_
    obtain ⟨w, a, b, -, -, -, rfl⟩ := wordBinary_eq_ok hu
    simp [State.setWord]
  case wAddb | wRol | wRor =>
    refine finish_kept h fun u hu => ?_
    obtain ⟨w, a, -, -, rfl⟩ := wordUnary_eq_ok hu
    simp [State.setWord]
  all_goals
    refine finish_kept h fun u hu => ?_
    simp only [bind_eq_ok, pure, Except.pure, Except.ok.injEq] at hu
  case wLd => obtain ⟨w, -, -, -, -, -, rfl⟩ := hu; simp [State.setWord]
  case wSt => obtain ⟨w, -, -, -, v, -, -, -, rfl⟩ := hu; simp [State.writeBytes]
  case wMov => obtain ⟨w, -, v, -, rfl⟩ := hu; simp [State.setWord]
  case lehGen => obtain ⟨-, -, rfl⟩ := hu; simp
  case md5Block => obtain ⟨-, -, -, -, rfl⟩ := hu; exact ⟨rfl, rfl, rfl⟩
  case md5Digest => obtain ⟨-, -, rfl⟩ := hu; exact ⟨rfl, rfl, rfl⟩
  case md5Hex => obtain ⟨-, -, rfl⟩ := hu; exact ⟨rfl, rfl, rfl⟩
  case rc5Expand => obtain ⟨w, -, rfl⟩ := hu; exact ⟨rfl, rfl, rfl⟩
  case rc5Encblk => obtain ⟨w, -, rfl⟩ := hu; simp [State.blockInPlace, State.writeBytes]
  case rc5Decblk => obtain ⟨w, -, rfl⟩ := hu; simp [State.blockInPlace, State.writeBytes]
  case rc5Encode => obtain ⟨w, -, rfl⟩ := hu; exact ⟨rfl, rfl, rfl⟩

/-- The sequencer's move ends with BUSY = 0 and keeps the moves to come and the parameters. -/
theorem coreMove_next (s : State) :
    ∃ t, coreMove s = .next t ∧ t.busy = false ∧ t.schedule = s.schedule ∧ t.params = s.params := by
  unfold coreMove
  split
  · split
    · rename_i i _
      obtain ⟨t, ht⟩ := exec_next i s
      exact ⟨t, ht, (exec_kept ht).busy, (exec_kept ht).schedule, (exec_kept ht).params⟩
    · exact ⟨_, rfl, rfl, rfl, rfl⟩
  · exact ⟨s, rfl, by simp_all, rfl, rfl⟩

theorem hostWrite_kept (s : State) (n : Nat) (v : BitVec 64) :
    (hostWrite s n v).schedule = s.schedule ∧ (hostWrite s n v).params = s.params := by
  unfold hostWrite issue
  split
  · exact ⟨rfl, rfl⟩
  · split
    · split <;> exact ⟨rfl, rfl⟩
    · unfold writeReg
      split <;> first | exact ⟨rfl, rfl⟩ | (unfold hostWriteWr; split <;> exact ⟨rfl, rfl⟩)

theorem hostRead_kept (s : State) (n : Nat) :
    (hostRead s n).schedule = s.schedule ∧ (hostRead s n).params = s.params := by
  unfold hostRead readBusy
  split
  · split
    · exact ⟨rfl, rfl⟩
    · split
      · split <;> exact ⟨rfl, rfl⟩
      · exact ⟨rfl, rfl⟩
  · exact ⟨rfl, rfl⟩

/-- A move with a meaning answers a next state with the same moves to come and the same parameters. -/
theorem makeMove_next (m : Move) (s : State) (h : m.hasMeaning s.params = true) :
    ∃ t, makeMove m s = .next t ∧ t.schedule = s.schedule ∧ t.params = s.params := by
  cases m with
  | core =>
    obtain ⟨t, ht, -, h1, h2⟩ := coreMove_next s
    exact ⟨t, ht, h1, h2⟩
  | reset => exact ⟨_, rfl, rfl, rfl⟩
  | write n v => exact ⟨_, rfl, hostWrite_kept s n v⟩
  | read n => exact ⟨_, rfl, hostRead_kept s n⟩
  | bufWrite sp a b =>
    have h : a < bufCap s.params sp := of_decide_eq_true h
    simp only [makeMove, hostBufWrite, if_neg (Nat.not_le.mpr h)]
    split
    · exact ⟨_, rfl, rfl, rfl⟩
    · exact ⟨_, rfl, by simp, by simp⟩
  | bufRead sp a =>
    have h : a < spaceSize s.params sp := of_decide_eq_true h
    simp only [makeMove, hostBufRead, if_neg (Nat.not_le.mpr h)]
    split <;> exact ⟨_, rfl, rfl, rfl⟩

/-- The point a host read shows: not before the last one seen, nor before the least one asked for, and within the run. -/
theorem pointInFlight_bounds {s : State} {lo : Nat} (h1 : lo ≤ lastPoint s) (h2 : s.seen ≤ lastPoint s) :
    lo ≤ pointInFlight s lo ∧ s.seen ≤ pointInFlight s lo ∧ pointInFlight s lo ≤ lastPoint s := by
  unfold pointInFlight
  omega

theorem run_succ {s t : State} (k : Nat) (h : step s = .next t) :
    Sys2Proof.core.run (k + 1) s = Sys2Proof.core.run k t := by
  have hs : Sys2Proof.core.step s = .next t := h
  simp only [Host.Core.run]
  rw [hs]

theorem runToEnd_of_ended {s : State} (k : Nat) (h : s.ended = true) : runToEnd k s = some s := by
  cases k <;> simp [runToEnd, h]

theorem runToEnd_succ {s t : State} (k : Nat) (h : s.ended = false) (hs : step s = .next t) :
    runToEnd (k + 1) s = runToEnd k t := by
  simp [runToEnd, h, hs]

/-- What the end of a run is: the run is there already, or one step takes it nearer. -/
theorem runToEnd_eq_some {k : Nat} {s t : State} (h : runToEnd k s = some t) :
    (s.ended = true ∧ t = s) ∨
      (s.ended = false ∧ ∃ j u, k = j + 1 ∧ step s = .next u ∧ runToEnd j u = some t) := by
  cases hs : s.ended with
  | true => exact .inl ⟨rfl, by simpa [runToEnd_of_ended k hs, eq_comm] using h⟩
  | false =>
    refine .inr ⟨rfl, ?_⟩
    cases k with
    | zero => simp [runToEnd, hs] at h
    | succ j =>
      cases hu : step s with
      | next u => exact ⟨j, u, rfl, rfl, by simpa [runToEnd_succ j hs hu] using h⟩
      | fault r => simp [runToEnd, hs, hu] at h
      | refused r => simp [runToEnd, hs, hu] at h

/-- The end of a run has ended, and the machine reaches it by its steps. -/
theorem runToEnd_run {k : Nat} {s t : State} (h : runToEnd k s = some t) :
    t.ended = true ∧ ∃ j, Sys2Proof.core.run j s = .next t := by
  induction k generalizing s with
  | zero =>
    obtain ⟨he, rfl⟩ | ⟨-, j, u, hk, -⟩ := runToEnd_eq_some h
    · exact ⟨he, 0, rfl⟩
    · simp at hk
  | succ k ih =>
    obtain ⟨he, rfl⟩ | ⟨-, j, u, hk, hs, hr⟩ := runToEnd_eq_some h
    · exact ⟨he, 0, rfl⟩
    · obtain rfl : k = j := by omega
      obtain ⟨he, n, hn⟩ := ih hr
      exact ⟨he, n + 1, (run_succ n hs).trans hn⟩

/-- A run has one end. -/
theorem endsIn_unique {s t u : State} (ht : t.endsIn s) (hu : u.endsIn s) : t = u := by
  obtain ⟨k, hk⟩ := ht
  obtain ⟨j, hj⟩ := hu
  induction k generalizing s j with
  | zero =>
    obtain ⟨he, rfl⟩ | ⟨-, n, -, hn, -⟩ := runToEnd_eq_some hk
    · exact Option.some.inj ((runToEnd_of_ended j he).symm.trans hj)
    · simp at hn
  | succ k ih =>
    obtain ⟨he, rfl⟩ | ⟨he, n, v, hn, hs, hr⟩ := runToEnd_eq_some hk
    · exact Option.some.inj ((runToEnd_of_ended j he).symm.trans hj)
    · obtain rfl : k = n := by omega
      obtain ⟨he', -⟩ | ⟨-, m, w, rfl, hs', hr'⟩ := runToEnd_eq_some hj
      · simp [he] at he'
      · obtain rfl : v = w := by simpa [hs] using hs'
        exact ih hr m hr'

/-- The run of a script whose moves all have a meaning ends, after at most one step for each move and one for a command
that is still to run (rules R17, R331). -/
theorem script_ends (s : State) (h : ∀ m ∈ s.schedule, m.hasMeaning s.params = true) : ∃ t : State, t.endsIn s := by
  generalize hl : s.schedule = l at h
  induction l generalizing s with
  | nil =>
    cases he : s.ended with
    | true => exact ⟨s, 0, runToEnd_of_ended 0 he⟩
    | false =>
      obtain ⟨t, ht, hb, hs, -⟩ := coreMove_next s
      have h1 : step s = .next t := by
        unfold step nextMove
        rw [hl]
        exact ht
      have h2 : t.ended = true := by simp [State.ended, hb, hs, hl]
      exact ⟨t, 1, (runToEnd_succ 0 he h1).trans (runToEnd_of_ended 0 h2)⟩
  | cons m l ih =>
    cases he : s.ended with
    | true => exact ⟨s, 0, runToEnd_of_ended 0 he⟩
    | false =>
      obtain ⟨u, hu, hs, hp⟩ := makeMove_next m { s with schedule := l } (h m (by simp))
      obtain ⟨t, k, ht⟩ := ih u (by rw [hs]) (fun x hx => by rw [hp]; exact h x (by simp [hx]))
      have h1 : step s = .next u := by
        unfold step nextMove
        rw [hl]
        exact hu
      exact ⟨t, k + 1, (runToEnd_succ k he h1).trans ht⟩

end Sys2Proof.Machine
end

