-- ==== Sys2Proof/Tests/Slice0.lean ====
section
/-! SUPPORT. Tests: words of 95_test_vectors.md section 2 decoded, one step of each command with the values of sections
3 to 8 of that file, and for every statement with hypotheses a state that meets them. -/

namespace Sys2Proof.Tests

set_option maxRecDepth 20000

open Sys2Proof.Machine

/-! ### WellFormed: the one check -/

theorem test_wellFormed_accepts_addb_255 : (Instr.wAddb .wr3 255).wellFormed = true := by decide

theorem test_wellFormed_refuses_addb_256 : (Instr.wAddb .wr3 256).wellFormed = false := by decide

/-! ### Decoding: the words of section 2.1, a command each, and of section 2.2 -/

theorem test_decode_sysNop : decode 0x00000000#32 = .ok .sysNop := by decide
theorem test_decode_sysClear : decode 0x00000001#32 = .ok .sysClear := by decide
theorem test_decode_wLd : decode 0xFFFF2310#32 = .ok (.wLd .wr3 .outmem 65535) := by decide
theorem test_decode_wSt : decode 0x00022111#32 = .ok (.wSt .wr1 .outmem 2) := by decide
theorem test_decode_wMov : decode 0x00000212#32 = .ok (.wMov .wr2 .wr0) := by decide
theorem test_decode_wAdd : decode 0x00002113#32 = .ok (.wAdd .wr1 .wr2) := by decide
theorem test_decode_wSub : decode 0x00001014#32 = .ok (.wSub .wr0 .wr1) := by decide
theorem test_decode_wXor : decode 0x00000115#32 = .ok (.wXor .wr1 .wr0) := by decide
theorem test_decode_wAddb : decode 0x00FF0316#32 = .ok (.wAddb .wr3 255) := by decide
theorem test_decode_wRol : decode 0xFFFF0317#32 = .ok (.wRol .wr3 65535) := by decide
theorem test_decode_wRor : decode 0x00010118#32 = .ok (.wRor .wr1 1) := by decide
theorem test_decode_wRolv : decode 0x00000119#32 = .ok (.wRolv .wr1 .wr0) := by decide
theorem test_decode_wRorv : decode 0x0000101A#32 = .ok (.wRorv .wr0 .wr1) := by decide
theorem test_decode_lehGen : decode 0x00000020#32 = .ok .lehGen := by decide
theorem test_decode_md5Init : decode 0x00000030#32 = .ok .md5Init := by decide
theorem test_decode_md5Block : decode 0x00401031#32 = .ok (.md5Block .inmem 64) := by decide
theorem test_decode_md5Digest : decode 0x00000032#32 = .ok .md5Digest := by decide
theorem test_decode_md5Hex : decode 0x00000033#32 = .ok .md5Hex := by decide
theorem test_decode_rc5Expand : decode 0x00000040#32 = .ok .rc5Expand := by decide
theorem test_decode_rc5Encblk : decode 0x00082041#32 = .ok (.rc5Encblk .outmem 8) := by decide
theorem test_decode_rc5Decblk : decode 0x00000042#32 = .ok (.rc5Decblk .keymem 0) := by decide
theorem test_decode_rc5Encode : decode 0x00000043#32 = .ok .rc5Encode := by decide
theorem test_decode_rc5Decode : decode 0x00000044#32 = .ok .rc5Decode := by decide

theorem test_illegal_opcodes :
    [0x00000002#32, 0x0000000F#32, 0x0000001B#32, 0x00000021#32, 0x00000034#32, 0x00000045#32, 0x000000FF#32].map decode =
      List.replicate 7 (.error .reservedOpcode) := by decide +kernel

theorem test_illegal_must_be_zero :
    [0x00000100#32, 0x00010000#32, 0x80000020#32, 0x00000140#32, 0x00010012#32, 0x00001017#32, 0x00000131#32].map decode =
      List.replicate 7 (.error .mustBeZero) := by decide +kernel

theorem test_illegal_fields :
    decode 0x00003010#32 = .error .spaceSelect ∧ decode 0x00000410#32 = .error .registerField ∧
      decode 0x00004013#32 = .error .registerField ∧ decode 0x01000016#32 = .error .byteImmediate ∧
      decode 0x00003041#32 = .error .spaceSelect := by decide +kernel

/-! ### One step of each command -/

/-- A state in which a command runs. -/
def running : State := { State.reset with busy := true }

/-- A running state with a width and the values of WR0 and WR1 under its tag. -/
def words (w : Width) (a b : Nat) : State :=
  { running with
    cfgWordsize := BitVec.ofNat 8 w.bits
    wr0 := .tagged w (BitVec.ofNat 64 a)
    wr1 := .tagged w (BitVec.ofNat 64 b) }

/-- A running state with a width, rounds, a key and an input. -/
def cipher (w : Width) (r klb : Nat) (key input : List Byte) : State :=
  { running with
    cfgWordsize := BitVec.ofNat 8 w.bits
    cfgRounds := BitVec.ofNat 8 r
    cfgKlb := BitVec.ofNat 16 klb
    keylen := BitVec.ofNat 16 key.length
    keymem := memOfBytes 0 key
    inlen := BitVec.ofNat 32 input.length
    inmem := memOfBytes 0 input }

/-- A running state with the Lehmer inputs. -/
def lehmer (a c m x n : Nat) : State :=
  { running with
    lehA := BitVec.ofNat 64 a
    lehC := BitVec.ofNat 64 c
    lehM := BitVec.ofNat 64 m
    lehX0 := BitVec.ofNat 64 x
    lehCount := BitVec.ofNat 32 n }

/-- The state a command ends in; none where it stops. -/
def after (i : Instr) (s : State) : Option State :=
  match exec i s with
  | .next t => some t
  | _ => none

/-- WR0 after a command. -/
def wr0After (i : Instr) (s : State) : Option WordReg := (after i s).map (·.wr0)

/-- STATUS and ERRINFO after a command. -/
def outcome (i : Instr) (s : State) : Option (BitVec 64 × BitVec 32) := (after i s).map fun t => (t.status, t.errinfo)

theorem test_nop_after_reset : outcome .sysNop running = some (0x002, 0) := by decide

theorem test_clear_keeps_kvalid :
    outcome .sysClear { running with err := true, errcode := 2, kvalid := true, errinfo := 0x4D } = some (0x008, 0) := by
  decide

theorem test_ld_last_word_w16 :
    wr0After (.wLd .wr0 .inmem 14) (cipher .w16 0 0 [] ((List.range 16).map fun k => BitVec.ofNat 8 (k + 1))) =
      some (.tagged .w16 0x100F) := by decide

theorem test_ld_past_end_w32 :
    outcome (.wLd .wr1 .inmem 13) (cipher .w32 0 0 [] (List.replicate 16 0)) = some (0x304, 13) := by decide

theorem test_st_little_endian :
    (after (.wSt .wr0 .outmem 2) { words .w16 0x1234 0 with outlen := 4 }).map (·.outmem) =
      some [(2, 0x34#8), (3, 0x12#8)] := by decide

theorem test_st_tag_before_bounds :
    outcome (.wSt .wr2 .outmem 0) { words .w32 0 0 with outlen := 2 } = some (0x704, 2) := by decide

theorem test_mov_copies : (after (.wMov .wr2 .wr0) (words .w32 0xDEADBEEF 0)).map (·.wr2) =
    some (.tagged .w32 0xDEADBEEF) := by decide

theorem test_add_wraps : wr0After (.wAdd .wr0 .wr1) (words .w16 0xFFFF 1) = some (.tagged .w16 0) := by decide

theorem test_add_itself : wr0After (.wAdd .wr0 .wr0) (words .w32 0x80000001 0) = some (.tagged .w32 2) := by decide

theorem test_sub_wraps : wr0After (.wSub .wr0 .wr1) (words .w32 5 7) = some (.tagged .w32 0xFFFFFFFE) := by decide

theorem test_sub_w64 : wr0After (.wSub .wr0 .wr1) (words .w64 0 1) = some (.tagged .w64 0xFFFFFFFFFFFFFFFF) := by decide

theorem test_xor : wr0After (.wXor .wr0 .wr1) (words .w16 0xAAAA 0x0FF0) = some (.tagged .w16 0xA55A) := by decide

theorem test_xor_untagged : outcome (.wXor .wr2 .wr2) (words .w32 1 1) = some (0x704, 2) := by decide

theorem test_addb_wraps : wr0After (.wAddb .wr0 255) (words .w16 0xFFFE 0) = some (.tagged .w16 0x00FD) := by decide

theorem test_rol_17_of_16 : wr0After (.wRol .wr0 17) (words .w16 0x8001 0) = some (.tagged .w16 3) := by decide

theorem test_rol_w64 : wr0After (.wRol .wr0 70) (words .w64 0x0123456789ABCDEF 0) =
    some (.tagged .w64 0x48D159E26AF37BC0) := by decide

theorem test_ror_20_of_16 : wr0After (.wRor .wr0 20) (words .w16 0x1234 0) = some (.tagged .w16 0x4123) := by decide

theorem test_ror_w64 : wr0After (.wRor .wr0 65) (words .w64 0x0123456789ABCDEF 0) =
    some (.tagged .w64 0x8091A2B3C4D5E6F7) := by decide

theorem test_rolv_by_15 : wr0After (.wRolv .wr0 .wr1) (words .w16 0xABCD 0xFFFF) = some (.tagged .w16 0xD5E6) := by
  decide

theorem test_rolv_itself : wr0After (.wRolv .wr0 .wr0) (words .w16 0x1234 0) = some (.tagged .w16 0x2341) := by decide

theorem test_rorv_by_31 : wr0After (.wRorv .wr0 .wr1) (words .w32 0x12345678 0x3F) = some (.tagged .w32 0x2468ACF0) := by
  decide

theorem test_rorv_unsupported_width :
    outcome (.wRorv .wr0 .wr1) { words .w16 1 1 with cfgWordsize := 8 } = some (0x104, 1) := by decide

theorem test_lehmer_tail :
    (after .lehGen (lehmer 2 0 12 1 8)).map (fun t => (t.seqmem, t.lehPeriod, t.lehFirstocc, t.status)) =
      some ([1, 2, 4, 8, 4, 8, 4, 8], 2, 4, 0x012) := by decide

theorem test_lehmer_exact_product :
    (after .lehGen (lehmer 0xFFFFFFFF 0xFFFFFFFF 0xFFFFFFFB 0xFFFFFFFA 4)).map (fun t => (t.seqmem, t.status)) =
      some ([4294967290, 0, 4, 20], 0x002) := by decide

theorem test_md5_init : (after .md5Init running).map (·.md5Acc) =
    some ⟨0x67452301, 0xEFCDAB89, 0x98BADCFE, 0x10325476⟩ := by decide

theorem test_md5_block_zeros :
    (after (.md5Block .inmem 0) (cipher .w16 0 0 [] (List.replicate 64 0))).map (·.md5Acc) =
      some ⟨0xF7CD1C97, 0xA5483681, 0x2B68D832, 0xF90CA639⟩ := by decide +kernel

theorem test_md5_block_past_end :
    outcome (.md5Block .inmem 37) { running with inlen := 100 } = some (0x304, 37) := by decide

theorem test_md5_digest_abc :
    (after .md5Digest (cipher .w16 0 0 [] [0x61, 0x62, 0x63])).map (fun t => t.outmem.map (·.2)) =
      some [0x90, 0x01, 0x50, 0x98, 0x3c, 0xd2, 0x4f, 0xb0, 0xd6, 0x96, 0x3f, 0x7d, 0x28, 0xe1, 0x7f, 0x72] := by
  decide +kernel

theorem test_md5_digest_empty :
    (after .md5Digest running).map (fun t => (t.md5Acc, t.outmem)) =
      some (⟨0xD98C1DD4, 0x04B2008F, 0x980980E9, 0x7E42F8EC⟩, memOfBytes 0 [0xd4, 0x1d, 0x8c, 0xd9, 0x8f, 0x00, 0xb2,
        0x04, 0xe9, 0x80, 0x09, 0x98, 0xec, 0xf8, 0x42, 0x7e]) := by decide +kernel

theorem test_md5_digest_two_blocks :
    (after .md5Digest (cipher .w16 0 0 [] ((List.range 56).map (BitVec.ofNat 8)))).map
      (fun t => (t.outmem.map (·.2)).take 4) = some [0x51, 0xfd, 0xd1, 0xac] := by decide +kernel

theorem test_md5_hex_abc :
    (after .md5Hex (cipher .w16 0 0 [] [0x61, 0x62, 0x63])).map (fun t => ((t.outmem.map (·.2)).take 8, t.outlen)) =
      some ([0x39, 0x30, 0x30, 0x31, 0x35, 0x30, 0x39, 0x38], 32) := by decide +kernel

theorem test_expand_w16 :
    (after .rc5Expand (cipher .w16 1 0 [1, 2, 3] [])).map (fun t => (t.stab, t.status)) =
      some ([0x68D4, 0xEEFF, 0x047C, 0xF307], 0x00A) := by decide +kernel

theorem test_expand_more_key_words_than_entries :
    (after .rc5Expand (cipher .w16 1 0 [1, 2, 3, 4, 5, 6, 7, 8, 9, 10, 11] [])).map (·.stab) =
      some [0xCD76, 0x6C85, 0xC279, 0x3244] := by decide +kernel

theorem test_expand_w32_last_entry :
    (after .rc5Expand (cipher .w32 12 0 ((List.range 16).map (BitVec.ofNat 8)) [])).map (fun t => t.stab.getLast?) =
      some (some 0xD99D49D0) := by decide +kernel

/-- The key table of the section 6.1 example in STAB. -/
def table16 (input : List Byte) : State :=
  { cipher .w16 1 0 [1, 2, 3] input with stab := [0x68D4, 0xEEFF, 0x047C, 0xF307], kvalid := true }

theorem test_encblk : (after (.rc5Encblk .inmem 0) (table16 [0x10, 0x11, 0x12, 0x13])).map (·.inmem.map (·.2)) =
    some [0x66, 0xfc, 0x06, 0x91] := by decide +kernel

theorem test_encblk_needs_table :
    outcome (.rc5Encblk .inmem 0) (cipher .w32 12 0 [] [0, 0, 0, 0]) = some (0x604, 0) := by decide

theorem test_decblk : (after (.rc5Decblk .inmem 0) (table16 [0x66, 0xfc, 0x06, 0x91])).map (·.inmem.map (·.2)) =
    some [0x10, 0x11, 0x12, 0x13] := by decide +kernel

theorem test_encode_hello :
    (after .rc5Encode (cipher .w16 2 8 [0x6b, 0x65, 0x79] [0x68, 0x65, 0x6c, 0x6c, 0x6f])).map
      (fun t => (t.outmem.map (·.2), t.status)) =
      some ([0x3a, 0x52, 0xb4, 0x7b, 0xa6, 0xe8, 0x8f, 0xe8, 0xd4, 0x19, 0xdf, 0x50], 0x00A) := by decide +kernel

theorem test_encode_iv_too_short : outcome .rc5Encode (cipher .w64 1 3 [1] []) = some (0x104, 4) := by decide

/-- The ciphertext of the section 8 program P4. -/
def hello : List Byte := [0x3a, 0x52, 0xb4, 0x7b, 0xa6, 0xe8, 0x8f, 0xe8, 0xd4, 0x19, 0xdf, 0x50]

theorem test_decode_hello :
    (after .rc5Decode (cipher .w16 2 8 [0x6b, 0x65, 0x79] hello)).map (fun t => (t.outmem.map (·.2), t.status)) =
      some ([0x68, 0x65, 0x6c, 0x6c, 0x6f], 0x00A) := by decide +kernel

theorem test_decode_wrong_key :
    (after .rc5Decode (cipher .w16 2 8 [0x6b, 0x65, 0x7a] hello)).map (fun t => (t.status, t.errinfo, t.outlen)) =
      some (0x20C, 0x4D, 0) := by decide +kernel

/-! ### Issue, step and the host's moves -/

/-- STATUS and ERRCMD after one step. -/
def stepped (s : State) : Option (BitVec 64 × BitVec 32) :=
  match step s with
  | .next t => some (t.status, t.errcmd)
  | _ => none

theorem test_step_runs_nop : stepped (State.reset.withFetchWord 32 0) = some (0x002, 0) := by decide

theorem test_step_runs_illegal_word : stepped (State.reset.withFetchWord 32 0x45) = some (0x404, 0x45) := by decide +kernel

theorem test_discarded_while_err :
    hostWrite { State.reset with err := true, errcode := 2 } 0 0x30 = { State.reset with err := true, errcode := 2 } := by
  decide

theorem test_retag :
    readReg (hostWrite { State.reset with cfgWordsize := 16 } 0x0A 0x12345) 0x0A = 0x2345 := by decide

/-- The host writes CFG_WORDSIZE, issues SYS_NOP, reads STATUS while it runs, and reads CFG_WORDSIZE after it. -/
def script : State :=
  { State.reset with schedule := [.write 0x04 0x20, .write 0 0x00000000, .read 0x01, .core, .read 0x04] }

theorem test_script_ends_good : script.runGood := ⟨_, ⟨5, rfl⟩, rfl⟩

/-- The host issues RC5_EXPAND in the reset state, which fails; a reset follows the last host move. -/
def failing : State := { State.reset with schedule := [.write 0 0x00000040, .core, .reset] }

theorem test_reset_after_last_host_move_does_not_mend : ¬ failing.runGood := by
  rintro ⟨t, ht, hg⟩
  have h : (runToEnd 2 failing).map (·.good) = some false := by decide
  obtain ⟨u, hu, hb⟩ := Option.map_eq_some_iff.mp h
  rw [endsIn_unique ht ⟨2, hu⟩, hb] at hg
  cases hg

theorem test_observe_only_while_idle :
    running.observe = none ∧ (State.reset.observe.map fun o => (o.words, o.stab, o.seqmem)) =
      some ([.untagged, .untagged, .untagged, .untagged], [], []) := by decide

/-- A running RC5_EXPAND that passes its checks. -/
def expanding : State := { cipher .w16 1 0 [1, 2, 3] [] with cmd := 0x00000040#32 }

theorem test_kvalid_does_not_go_back :
    kvalidAt expanding 0 = false ∧ kvalidAt expanding 1 = true ∧
      (hostRead { expanding with seen := 1 } 0x01).hostData = 0x009 := by
  have h : lastPoint { expanding with seen := 1 } = 1 := by decide
  have hp : pointInFlight { expanding with seen := 1 } 0 = 1 := by simp [pointInFlight, h]
  have hr : (hostRead { expanding with seen := 1 } 0x01).hostData = statusInFlight { expanding with seen := 1 } 1 :=
    congrArg (statusInFlight { expanding with seen := 1 }) hp
  exact ⟨by decide, by decide, hr.trans (by decide)⟩

/-! ### Witnesses: for each statement with hypotheses a state and operands that meet them, each clause at a boundary -/

theorem witness_DecodeUndoesEncode : (Instr.wAddb .wr3 255).wellFormed = true ∧ (Instr.wRol .wr0 65535).wellFormed = true := by
  decide

theorem witness_EncodeUndoesDecode : decode 0xFFFF0317#32 = .ok (.wRol .wr3 65535) := by decide

theorem witness_DecoderAgreesWithOpcodeMap :
    (∃ r ∈ opcodeMap, r.accepts 0x00022111#32 = true ∧ 0x00022111#32 &&& r.mask = r.value) ∧
      decode 0x00022111#32 = .ok (.wSt .wr1 .outmem 2) := by decide +kernel

theorem witness_StepRunsAcceptedCommand :
    let s := { running with cmd := 0x00000020#32 }
    s.busy = true ∧ decode s.cmd = .ok .lehGen ∧ s.schedule = [] ∧
      ({ s with schedule := [.core, .read 1] } : State).schedule = .core :: [.read 1] ∧
      decode (commandWord 32 0xFFFF0317) = .ok (.wRol .wr3 65535) := by decide

theorem witness_CommandIssueFollowsAcceptance :
    let e := { State.reset with err := true, errcode := 7 }
    running.busy = true ∧ (e.busy = false ∧ e.err = true ∧ 0x00000000#32 ≠ 0x00000001#32) ∧
      (e.busy = false ∧ 0x00000001#32 = (0x1#64).setWidth 32 ∧ e.schedule = [] ∧ decode 0x00000001#32 = .ok .sysClear) ∧
      (State.reset.busy = false ∧ State.reset.err = false ∧ decode 0x01000016#32 = .error .byteImmediate) := by decide

theorem witness_StepMakesScheduledMove :
    ({ running with schedule := [.write 0xFFFF 1] } : State).schedule = .write 0xFFFF 1 :: [] ∧
      ({ running with schedule := [.read 0] } : State).schedule = .read 0 :: [] ∧
      ({ running with schedule := [.bufWrite .outmem 4127 9] } : State).schedule = .bufWrite .outmem 4127 9 :: [] ∧
      ({ running with schedule := [.bufRead .stab 512] } : State).schedule = .bufRead .stab 512 :: [] ∧
      ({ running with schedule := [.reset, .core] } : State).schedule = .reset :: [.core] ∧
      (({ State.reset with schedule := [.core] } : State).schedule = .core :: [] ∧ State.reset.busy = false) ∧
      (State.reset.schedule = [] ∧ State.reset.good = true ∧ ({ State.reset with err := true } : State).good = false) ∧
      ({ State.reset with schedule := [.core, .reset] } : State).ended = true ∧
      ({ State.reset with schedule := [.reset, .read 1] } : State).ended = false ∧ running.ended = false := by
  decide

theorem witness_ResetRegistersAreZero : (0x09 : Nat) ≠ 0x0A ∧ (0x0E : Nat) ≠ 0x0D := by decide

theorem default_legal : Config.default.Legal := by constructor <;> decide

theorem zero_widths {s : State} (h1 : s.lehA = 0) (h2 : s.lehC = 0) (h3 : s.lehM = 0) (h4 : s.lehX0 = 0)
    (h5 : s.seqmem = []) : s.lehmerWidths := by
  simp [State.lehmerWidths, h1, h2, h3, h4, h5]

theorem reset_inv : State.reset.Inv := by constructor <;> first | exact default_legal | exact zero_widths rfl rfl rfl rfl rfl | decide

theorem running_inv : running.Inv := by constructor <;> first | exact default_legal | exact zero_widths rfl rfl rfl rfl rfl | decide

theorem witness_StepKeepsLegalStates :
    State.reset.Inv ∧ step State.reset = .next State.reset ∧ running.Inv ∧ step running = .next running.complete :=
  ⟨reset_inv, rfl, running_inv, rfl⟩

theorem witness_StatusReadsItsFields :
    ({ State.reset with err := true, errcode := 7, kvalid := true } : State).busy = false ∧
      hostRead { State.reset with err := true, errcode := 7, kvalid := true } 0x01 =
        { State.reset with err := true, errcode := 7, kvalid := true, hostData := 0x70C } := by decide

theorem witness_RegisterSpaceFollowsTheMap :
    State.reset.busy = false ∧
      (∀ n ∈ [0x0E, 0x0F, 0x19, 0x1F, 0x24], n ∉ [0x00, 0x01, 0x02, 0x03, 0x04, 0x05, 0x06, 0x07, 0x08, 0x09, 0x0A, 0x0B,
        0x0C, 0x0D, 0x10, 0x11, 0x12, 0x13, 0x14, 0x15, 0x16, 0x17, 0x18, 0x20, 0x21, 0x22, 0x23]) ∧
      (∀ n ∈ [0x00, 0x02, 0x03, 0x05, 0x09, 0x0E, 0x18, 0x23], n ∉ [0x04, 0x01, 0x0A, 0x0B, 0x0C, 0x0D]) ∧
      ∀ n ∈ [0x01, 0x02, 0x03, 0x0E, 0x0F, 0x15, 0x18, 0x19, 0x1F, 0x24],
        n ∉ [0x00, 0x04, 0x05, 0x06, 0x07, 0x08, 0x09, 0x0A, 0x0B, 0x0C, 0x0D, 0x10, 0x11, 0x12, 0x13, 0x14, 0x20, 0x21,
          0x22, 0x23] := by decide

theorem witness_WordRegisterHostAccess :
    State.reset.busy = false ∧ ({ State.reset with cfgWordsize := 64 } : State).configured .w64 ∧
      ({ State.reset with cfgWordsize := 65 } : State).unsupported ∧ State.reset.unsupported ∧
      ({ State.reset with wr3 := .tagged .w16 0xFFFF } : State).wr .wr3 = .tagged .w16 0xFFFF ∧
      State.reset.wr .wr0 = .untagged := by decide

theorem witness_ConfigurationWriteClearsKvalid :
    State.reset.busy = false ∧ (0x03 : Nat) ≠ 0x04 ∧ (0x06 : Nat) ≠ 0x05 ∧
      hostBufWrite State.reset .keymem 255 1 = .next { State.reset with keymem := [(255, 1)] } :=
  ⟨rfl, by decide, by decide, rfl⟩

theorem witness_BusyTurnsHostMovesAway :
    running.busy = true ∧ 4127 < spaceSize running.params (.bytes .outmem) ∧ 511 < spaceSize running.params .stab ∧
      (0x00 : Nat) ≠ 0x01 ∧ (0x17 : Nat) ≠ 0x18 ∧ spaceSize running.params (.bytes .outmem) ≤ 4128 ∧
      spaceSize running.params .stab ≤ 512 := by decide

theorem witness_StatusCombinationsAreTheFour :
    State.reset.Inv ∧ (running.Inv ∧ running.busy = true) ∧
      (decode expanding.cmd = .ok .rc5Expand ∧ kvalidAt expanding 1 = true ∧ ∃ u, exec .rc5Expand expanding = .next u) ∧
      (generates { lehmer 2 0 12 1 5 with cmd := 0x00000020#32 } = true ∧
        pvalidAt { lehmer 2 0 12 1 5 with cmd := 0x00000020#32 } 9 = false ∧
        pvalidAt { lehmer 2 0 12 1 5 with cmd := 0x00000020#32 } 10 = true) :=
  ⟨reset_inv, ⟨running_inv, rfl⟩, ⟨by decide, by decide, exec_next _ _⟩, by decide⟩

theorem witness_ProgressReadsDoNotDecrease :
    let s := { lehmer 5 1 16 3 4096 with cmd := 0x00000020#32, seen := 2 * 4096 + 1 }
    s.busy = true ∧ generates s = true ∧ s.seen ≤ lastPoint s := by decide

theorem witness_BufferMovesReachOneUnit :
    let s : State :=
      { State.reset with
        kvalid := true, cfgRounds := 1, stab := [1, 2, 3, 4], lehSeqlen := 2, seqmem := [5, 6], keymem := [(255, 9)] }
    s.busy = false ∧ (255 < spaceSize s.params (.bytes .keymem) ∧ memGet s.keymem 255 = some 9) ∧
      (0 < spaceSize s.params (.bytes .keymem) ∧ memGet s.keymem 0 = none) ∧
      (s.kvalid = true ∧ 3 < 2 * (s.cfgRounds.toNat + 1) ∧ s.stab[3]? = some 4) ∧
      (2 * (s.cfgRounds.toNat + 1) ≤ 4 ∧ 4 < 512) ∧ (State.reset.kvalid = false ∧ 511 < 512) ∧
      (1 < s.lehSeqlen.toNat ∧ 1 < s.params.seqMax ∧ s.seqmem[1]? = some 6) ∧
      (s.lehSeqlen.toNat ≤ 2 ∧ 4095 < s.params.seqMax) ∧
      (spaceSize s.params .seqmem ≤ 4096 ∧ spaceSize s.params (.bytes .keymem) ≤ 256) := by decide

/-- A state in which RC5_DECODE finds an empty recovered buffer. -/
def bare : State := cipher .w16 1 0 [1] [0, 0, 0, 0]

theorem witness_FailedCommandChangesNothingElse :
    (∃ t, running.err = false ∧ exec .lehGen running = .next t ∧ t.err = true ∧ t.errcode ≠ 2) ∧
      ∃ t, bare.err = false ∧ exec .rc5Decode bare = .next t ∧ t.err = true ∧ t.errcode = 2 := by
  refine ⟨⟨running.errorEntry ⟨.configuration, 3⟩, rfl, rfl, rfl, by decide +kernel⟩, ?_⟩
  obtain ⟨t, ht⟩ := exec_next .rc5Decode bare
  have h : (after .rc5Decode bare).map (fun t => (t.err, t.errcode)) = some (true, 2) := by decide +kernel
  simp only [after, ht, Option.map_some, Option.some.injEq, Prod.mk.injEq] at h
  exact ⟨t, rfl, ht, h.1, h.2⟩

theorem witness_CommandsRaiseOnlyTheirErrors :
    ∃ t, running.err = false ∧ exec .rc5Encode running = .next t ∧ t.err = true :=
  ⟨running.errorEntry ⟨.configuration, 1⟩, rfl, rfl, rfl⟩

/-- A state with an error recorded, as SYS_NOP's word could not be accepted in it. -/
def broken : State := { State.reset with err := true, errcode := 1, errinfo := 1, errcmd := 0x40 }

theorem witness_ErrorStaysUntilClearedOrReset :
    (broken.Inv ∧ broken.err = true ∧ step broken = .next broken ∧ ∀ rest, broken.schedule ≠ .reset :: rest) ∧
      (broken.accept 1).Inv ∧ (broken.accept 1).err = true ∧
        step (broken.accept 1) = .next (broken.accept 1).clearError :=
  ⟨⟨by constructor <;> first | exact default_legal | exact zero_widths rfl rfl rfl rfl rfl | decide, rfl, rfl, fun rest h => by cases h⟩,
    by constructor <;> first | exact default_legal | exact zero_widths rfl rfl rfl rfl rfl | decide, rfl, rfl⟩

theorem witness_WordCommandsCheckWidthThenTags :
    running.unsupported ∧ (words .w64 1 2).configured .w64 ∧ (words .w64 1 2).mistagged .w64 .wr2 ∧
      ¬ (words .w64 1 2).mistagged .w64 .wr0 := by
  exact ⟨by decide, by decide, fun _ h => WordReg.noConfusion h, fun h => h 1 rfl⟩

theorem witness_LoadsAndStoresCheckInOrder :
    let s := words .w32 1 2
    s.configured .w32 ∧ bufCap s.params .keymem < ({ s with keylen := 257 } : State).blen .keymem ∧
      bufCap s.params .inmem < ({ s with inlen := 4097 } : State).blen .inmem ∧
      bufCap s.params .outmem < ({ s with outlen := 4129 } : State).blen .outmem ∧
      (({ s with outlen := 4128 } : State).blen .outmem ≤ bufCap s.params .outmem ∧ s.mistagged .w32 .wr3) ∧
      (s.blen .outmem ≤ bufCap s.params .outmem ∧
        ({ s with outlen := 4 } : State).blen .outmem < (1#16).toNat + Width.w32.bytes ∧ ¬ s.mistagged .w32 .wr1) := by
  refine ⟨by decide, by decide, by decide, by decide, ⟨by decide, fun v h => by cases h⟩, by decide, by decide,
    fun h => h 2 rfl⟩

theorem witness_Rc5CommandsCheckConfigurationAndKey :
    let s := cipher .w32 1 2 [1] (List.replicate 15 0)
    running.unsupported ∧ s.configured .w32 ∧ (cipher .w32 0 2 [1] []).cfgRounds = 0 ∧ s.cfgRounds ≠ 0 ∧
      s.params.ivValueBytes * (cipher .w32 1 1 [1] []).cfgKlb.toNat < 2 * Width.w32.bytes ∧
      2 * Width.w32.bytes ≤ s.params.ivValueBytes * s.cfgKlb.toNat ∧
      (cipher .w32 1 2 [] []).keylen.toNat = 0 ∧ s.params.keyMax < ({ s with keylen := 257 } : State).keylen.toNat ∧
      (s.keylen.toNat ≠ 0 ∧ s.keylen.toNat ≤ s.params.keyMax ∧ Instr.rc5Decode ≠ .rc5Expand) ∧
      s.params.bufMax < ({ s with inlen := 4097 } : State).inlen.toNat ∧ s.inlen.toNat ≤ s.params.bufMax ∧
      ({ s with inlen := 7 } : State).inlen.toNat < 2 * Width.w32.bytes ∧
      (2 * Width.w32.bytes ≤ s.inlen.toNat ∧ s.inlen.toNat % (2 * Width.w32.bytes) ≠ 0) := by decide

theorem witness_BlockCommandsCheckInOrder :
    let s := cipher .w16 1 0 [] [1, 2, 3, 4]
    running.unsupported ∧ s.configured .w16 ∧ (cipher .w16 0 0 [] []).cfgRounds = 0 ∧ s.cfgRounds ≠ 0 ∧
      bufCap s.params .inmem < ({ s with inlen := 4097 } : State).blen .inmem ∧ s.blen .inmem ≤ bufCap s.params .inmem ∧ s.kvalid = false ∧
      (({ s with kvalid := true } : State).kvalid = true ∧ s.blen .inmem < (1#16).toNat + 2 * Width.w16.bytes) := by
  decide

theorem witness_LehmerAndMd5CheckInOrder :
    running.lehM = 0 ∧ (lehmer 5 1 1 3 0).lehM ≠ 0 ∧ (lehmer 5 1 1 3 0).lehCount = 0 ∧
      running.params.seqMax < (lehmer 5 1 16 3 4097).lehCount.toNat ∧
      running.params.bufMax < ({ running with inlen := 4097 } : State).inlen.toNat ∧
      bufCap running.params .outmem < ({ running with outlen := 4129 } : State).blen .outmem ∧
      (({ running with inlen := 100 } : State).blen .inmem ≤ bufCap running.params .inmem ∧
        ({ running with inlen := 100 } : State).blen .inmem < (37#16).toNat + 64) := by decide

theorem witness_CommandsWriteOnlyTheirSpaces :
    ∃ t, exec (.wSt .wr0 .outmem 0) { words .w16 0x4BD6 0 with outlen := 2 } = .next t ∧
      t.buf .outmem ≠ ({ words .w16 0x4BD6 0 with outlen := 2 } : State).buf .outmem := by
  obtain ⟨t, ht⟩ := exec_next (.wSt .wr0 .outmem 0) { words .w16 0x4BD6 0 with outlen := 2 }
  have h : (after (.wSt .wr0 .outmem 0) { words .w16 0x4BD6 0 with outlen := 2 }).map (·.outmem) =
      some [(0, 0xD6), (1, 0x4B)] := by decide
  simp only [after, ht, Option.map_some, Option.some.injEq] at h
  exact ⟨t, ht, by simp only [State.buf, h]; decide⟩

theorem witness_CommandsWriteOnlyTheirRegisters :
    ∃ t, exec (.wMov .wr2 .wr0) (words .w16 1 2) = .next t ∧ t.wr .wr2 ≠ (words .w16 1 2).wr .wr2 := by
  obtain ⟨t, ht⟩ := exec_next (.wMov .wr2 .wr0) (words .w16 1 2)
  have h : (after (.wMov .wr2 .wr0) (words .w16 1 2)).map (·.wr2) = some (.tagged .w16 1) := by decide
  simp only [after, ht, Option.map_some, Option.some.injEq] at h
  exact ⟨t, ht, by simp only [State.wr, h]; decide⟩

theorem witness_NopOnlySetsDone :
    broken.err = true ∧ exec .sysNop (hostWrite State.reset 0 0) = .next (hostWrite State.reset 0 0).complete :=
  ⟨rfl, rfl⟩

theorem witness_ClearAcknowledgesTheError :
    (broken.busy = false ∧ broken.err = true ∧ (0x100000000#64).setWidth 32 ≠ 0x00000001#32) ∧
      readReg { broken with errcode := 2, kvalid := true } 0x01 = 0x20C#64 := by decide

theorem witness_RegisterPairCommandsComplete :
    (words .w64 0xFFFFFFFFFFFFFFFF 1).configured .w64 ∧
      (words .w64 0xFFFFFFFFFFFFFFFF 1).wr .wr0 = .tagged .w64 0xFFFFFFFFFFFFFFFF ∧
      (words .w64 0xFFFFFFFFFFFFFFFF 1).holds .w64 .wr1 (BitVec.ofNat _ 1) := by decide

theorem witness_ImmediateCommandsComplete :
    (words .w16 0xFFFF 1).configured .w16 ∧ (words .w16 0xFFFF 1).holds .w16 .wr0 (BitVec.ofNat _ 0xFFFF) ∧
      (Instr.wAddb .wr0 255).wellFormed = true ∧ (Instr.wRol .wr0 65535).wellFormed = true ∧
      (Instr.wRor .wr0 65535).wellFormed = true := by decide

theorem witness_MoveCopiesTheWord :
    (words .w32 1 0xDEADBEEF).configured .w32 ∧ (words .w32 1 0xDEADBEEF).holds .w32 .wr1 (BitVec.ofNat _ 0xDEADBEEF) := by
  decide

theorem witness_LoadReadsLittleEndian :
    let s := cipher .w16 0 0 [] (List.replicate 16 0)
    s.configured .w16 ∧ s.blen .inmem ≤ bufCap s.params .inmem ∧ (14#16).toNat + Width.w16.bytes ≤ s.blen .inmem := by decide

theorem witness_StoreWritesLittleEndian :
    let s := { words .w64 7 0 with outlen := 4128 }
    s.configured .w64 ∧ s.holds .w64 .wr0 (BitVec.ofNat _ 7) ∧ s.blen .outmem ≤ bufCap s.params .outmem ∧
      (4120#16).toNat + Width.w64.bytes ≤ s.blen .outmem := by decide

theorem witness_LehmerProducesTheSequence :
    let s := lehmer 5 1 16 3 4096
    s.lehM ≠ 0 ∧ s.lehCount ≠ 0 ∧ s.lehCount.toNat ≤ s.params.seqMax := by decide

theorem witness_LehmerReportsFirstRepetition :
    (∃ t, exec .lehGen (lehmer 2 0 12 1 5) = .next t ∧ t.pvalid = true) ∧
      (∃ t, exec .lehGen (lehmer 2 0 12 1 4) = .next t ∧ t.pvalid = false) ∧
      (lehmer 2 0 12 1 5).lehM ≠ 0 ∧ (lehmer 2 0 12 1 5).lehCount ≠ 0 ∧
      (lehmer 2 0 12 1 5).lehCount.toNat ≤ (lehmer 2 0 12 1 5).params.seqMax := by
  refine ⟨?_, ?_, by decide⟩
  · obtain ⟨t, ht⟩ := exec_next .lehGen (lehmer 2 0 12 1 5)
    have h : (after .lehGen (lehmer 2 0 12 1 5)).map (·.pvalid) = some true := by decide
    simp only [after, ht, Option.map_some, Option.some.injEq] at h
    exact ⟨t, ht, h⟩
  · obtain ⟨t, ht⟩ := exec_next .lehGen (lehmer 2 0 12 1 4)
    have h : (after .lehGen (lehmer 2 0 12 1 4)).map (·.pvalid) = some false := by decide
    simp only [after, ht, Option.map_some, Option.some.injEq] at h
    exact ⟨t, ht, h⟩

theorem witness_Md5BlockCompressesOneBlock :
    let s : State := { running with inlen := 100 }
    s.blen .inmem ≤ bufCap s.params .inmem ∧ (36#16).toNat + 64 ≤ s.blen .inmem := by decide

theorem witness_Md5PaddingShape :
    let p := md5Pad (List.replicate 3 0x61#8)
    (3 < 4 ∧ 4 < p.length - 8) ∧ 55 < p.length - 8 := by decide

theorem witness_Md5DigestWritesTheDigest : ({ running with inlen := 4096 } : State).inlen.toNat ≤ running.params.bufMax := by
  decide

theorem witness_Md5HexWritesTheCharacters : running.inlen.toNat ≤ running.params.bufMax := by decide

theorem witness_KeyPacksLittleEndian :
    [1#8, 2#8, 3#8] ≠ [] ∧ 1 < ([1#8, 2#8, 3#8].length + Width.w16.bytes - 1) / Width.w16.bytes := by decide

theorem witness_ZeroExtendedKeysShareTheTable :
    [1#8] ≠ [] ∧ [1#8].length + 3 ≤ ([1#8].length + Width.w32.bytes - 1) / Width.w32.bytes * Width.w32.bytes := by decide

theorem witness_ExpandBuildsTheTable :
    let s := cipher .w64 255 0 (List.replicate 256 0) []
    s.configured .w64 ∧ s.cfgRounds ≠ 0 ∧ s.keylen ≠ 0 ∧ s.keylen.toNat ≤ s.params.keyMax := by decide

/-- The mixing of the 11-byte key of section 6.2 after k steps: c = 6 key words, t = 4 table entries. -/
def mixed (k : Nat) : MixState Width.w16.bits :=
  mixLoop k
    ⟨initTable (Config.default.rc5Q .w16) 4 (Config.default.rc5P .w16),
      packKey Width.w16.bytes ((List.range 11).map fun k => BitVec.ofNat 8 (k + 1)), 0, 0, 0, 0⟩

theorem witness_ExpandBuildsTheTable_mixing :
    (11 + Width.w16.bytes - 1) / Width.w16.bytes = 6 ∧
      ∀ k, k < 3 * max 4 6 →
        let a := mixed k
        let b := mixed (k + 1)
        b.x.toNat = rotlSpec 16 (((a.s.getD a.i 0).toNat + a.x.toNat + a.y.toNat) % 2 ^ 16) 3 ∧
        b.y.toNat = rotlSpec 16 (((a.l.getD a.j 0).toNat + b.x.toNat + a.y.toNat) % 2 ^ 16) (b.x.toNat + a.y.toNat) ∧
        b.s = a.s.set a.i b.x ∧ b.l = a.l.set a.j b.y ∧ b.i = (a.i + 1) % 4 ∧ b.j = (a.j + 1) % 6 := by
  decide +kernel

theorem witness_BlockCommandsWorkInPlace :
    let s := table16 [0x10, 0x11, 0x12, 0x13]
    s.configured .w16 ∧ s.cfgRounds ≠ 0 ∧ s.blen .inmem ≤ bufCap s.params .inmem ∧ s.kvalid = true ∧
      (0#16).toNat + 2 * Width.w16.bytes ≤ s.blen .inmem := by decide

theorem witness_DecblkRestoresWhatEncblkWrote :
    let s := table16 [0x10, 0x11, 0x12, 0x13]
    (s.configured .w16 ∧ s.cfgRounds ≠ 0 ∧ s.blen .inmem ≤ bufCap s.params .inmem ∧ s.kvalid = true ∧
      (0#16).toNat + 2 * Width.w16.bytes ≤ s.blen .inmem) ∧ ∃ u, exec (.rc5Encblk .inmem 0) s = .next u :=
  ⟨by decide, exec_next _ _⟩

theorem witness_MessagePaddingShape :
    let q := pad7 Width.w16.blockBytes [1#8, 2#8, 3#8, 4#8]
    4 ≤ 4 ∧ 4 < q.length := by decide

theorem witness_InitialisationVectorIsFixed : 4 ≤ 4 * 1 ∧ 8 ≤ 4 * 2 ∧ 16 ≤ 4 * 4 := by decide

theorem witness_EncodeChainsFromTheRawIv :
    let enc := fun x : List Byte => (x ++ [0#8, 0#8, 0#8, 0#8]).take 4
    0 < 4 ∧ (∀ x, (enc x).length = 4) ∧ [0x17#8, 0#8, 0#8, 0#8].length = 4 ∧ (List.replicate 8 1#8).length = 2 * 4 ∧
      0 < 2 ∧ 0 < 1 ∧ 1 < 2 :=
  ⟨by decide, fun x => by simp, by decide, by decide, by decide, by decide, by decide⟩

theorem witness_EncodeWritesTheCiphertext :
    let s := { cipher .w16 1 1 [1] [] with inlen := 4096 }
    s.configured .w16 ∧ s.cfgRounds ≠ 0 ∧ 2 * Width.w16.bytes ≤ s.params.ivValueBytes * s.cfgKlb.toNat ∧ s.keylen ≠ 0 ∧
      s.keylen.toNat ≤ s.params.keyMax ∧ s.inlen.toNat ≤ s.params.bufMax ∧ s.params.Legal :=
  ⟨by decide, by decide, by decide, by decide, by decide, by decide, default_legal⟩

theorem witness_DecodeChecksThePaddingByte :
    (bare.configured .w16 ∧ bare.cfgRounds ≠ 0 ∧ bare.keylen ≠ 0 ∧ bare.keylen.toNat ≤ bare.params.keyMax ∧
        bare.inlen.toNat ≤ bare.params.bufMax ∧ 2 * Width.w16.bytes ≤ bare.inlen.toNat ∧
        bare.inlen.toNat % (2 * Width.w16.bytes) = 0) ∧
      bare.recovered .w16 = [] ∧
      (cipher .w16 2 8 [0x6b, 0x65, 0x79] hello).recovered .w16 = [0x68, 0x65, 0x6c, 0x6c, 0x6f, 3, 3, 3] ∧
      ((cipher .w16 2 8 [0x6b, 0x65, 0x7a] hello).recovered .w16).getLast? = some 0x4D := by
  refine ⟨by decide +kernel, by decide +kernel, by decide +kernel, by decide +kernel⟩

theorem witness_MessageRoundTrip :
    let s := { cipher .w16 1 1 [1] [] with inlen := 4088 }
    s.params.Legal ∧
      (s.configured .w16 ∧ s.cfgRounds ≠ 0 ∧ 2 * Width.w16.bytes ≤ s.params.ivValueBytes * s.cfgKlb.toNat ∧
        s.keylen ≠ 0 ∧ s.keylen.toNat ≤ s.params.keyMax ∧ (∀ a, a < s.keylen.toNat → memGet s.keymem a ≠ none) ∧
        s.inlen.toNat ≤ s.params.bufMax - 2 * (2 * Width.w16.bytes) ∧ s.err = false) ∧
      ∃ u, exec .rc5Encode s = .next u ∧ ∀ a, a < u.outlen.toNat → memGet u.outmem a = memGet u.outmem a := by
  obtain ⟨u, hu⟩ := exec_next .rc5Encode { cipher .w16 1 1 [1] [] with inlen := 4088 }
  exact ⟨default_legal, by decide, u, hu, fun _ _ => rfl⟩

theorem witness_EncodeIsPredictable :
    let s := cipher .w16 1 1 [1] [5]
    let s' := { cipher .w16 1 9 [1] [5] with lehA := 3 }
    (s.params = s'.params ∧ s.configured .w16 ∧ s'.configured .w16 ∧ s.cfgRounds ≠ 0 ∧ s.cfgRounds = s'.cfgRounds ∧ s.keylen ≠ 0 ∧
      s.keylen.toNat ≤ s.params.keyMax ∧ 2 * Width.w16.bytes ≤ s.params.ivValueBytes * s.cfgKlb.toNat ∧
      2 * Width.w16.bytes ≤ s'.params.ivValueBytes * s'.cfgKlb.toNat ∧ s.inlen.toNat ≤ s.params.bufMax ∧
      s'.inlen.toNat ≤ s'.params.bufMax) ∧
      s.keyBytes = s'.keyBytes ∧ s.input = s'.input ∧
      (∃ t, exec .rc5Encode s = .next t) ∧ ∃ t, exec .rc5Encode s' = .next t :=
  ⟨by decide, by decide, by decide, exec_next _ _, exec_next _ _⟩

theorem witness_InitialTableIsArithmetic : 511 < tableSize 255 := by decide

end Sys2Proof.Tests
end

section
/-! PROOFS. Word arithmetic at every width (rule R13), and the word commands that complete (O33, O35, O36). -/

namespace Sys2Proof.Machine

/-! ### The two rotates on naturals -/

/-- The bits a left shift keeps are the low `w - k` ones. -/
theorem shiftLeft_mod_two_pow {w k : Nat} (hk : k ≤ w) (x : Nat) :
    (x <<< k) % 2 ^ w = (x % 2 ^ (w - k)) <<< k := by
  rw [Nat.shiftLeft_eq, Nat.shiftLeft_eq, ← Nat.mul_mod_mul_right, ← Nat.pow_add, Nat.sub_add_cancel hk]

/-- A number below 2^w shifted right by `w - k` is below 2^k. -/
theorem shiftRight_lt_two_pow {w k x : Nat} (hk : k ≤ w) (hx : x < 2 ^ w) : x >>> (w - k) < 2 ^ k := by
  rw [Nat.shiftRight_eq_div_pow, Nat.div_lt_iff_lt_mul (Nat.two_pow_pos _), ← Nat.pow_add, Nat.add_sub_cancel' hk]
  exact hx

theorem toNat_rotlW {w : Nat} (hw : 0 < w) (a : BitVec w) (n : Nat) : (rotlW a n).toNat = rotlSpec w a.toNat n := by
  have hk : n % w ≤ w := (Nat.mod_lt n hw).le
  rw [rotlW, BitVec.toNat_rotateLeft, shiftLeft_mod_two_pow hk,
    ← Nat.shiftLeft_add_eq_or_of_lt (shiftRight_lt_two_pow hk a.isLt), ← shiftLeft_mod_two_pow hk, rotlSpec]
  split
  · rename_i h0
    simp [h0, Nat.mod_eq_of_lt a.isLt, Nat.shiftRight_eq_div_pow, Nat.div_eq_of_lt a.isLt]
  · rw [Nat.shiftLeft_eq, Nat.shiftRight_eq_div_pow]

theorem toNat_rotrW {w : Nat} (hw : 0 < w) (a : BitVec w) (n : Nat) : (rotrW a n).toNat = rotrSpec w a.toNat n := by
  have hk : n % w ≤ w := (Nat.mod_lt n hw).le
  have hlow : a.toNat >>> (n % w) < 2 ^ (w - n % w) := by
    simpa [Nat.sub_sub_self hk] using shiftRight_lt_two_pow (Nat.sub_le w (n % w)) a.isLt
  rw [rotrW, BitVec.toNat_rotateRight, shiftLeft_mod_two_pow (Nat.sub_le w (n % w)), Nat.or_comm,
    ← Nat.shiftLeft_add_eq_or_of_lt hlow, Nat.sub_sub_self hk, rotrSpec]
  split
  · rename_i h0
    simp [h0, Nat.mod_one]
  · rw [Nat.shiftLeft_eq, Nat.shiftRight_eq_div_pow, Nat.add_comm]

theorem bits_pos (w : Width) : 0 < w.bits := by cases w <;> decide

theorem bits_le_64 (w : Width) : w.bits ≤ 64 := by cases w <;> decide

/-- Settles O33: the rotates are an or of two shifts whose bits do not meet, which is their sum. -/
theorem wordArithmeticFollowsTheNaturals : Obligations.WordArithmeticFollowsTheNaturals := by
  intro w a b n
  refine ⟨BitVec.toNat_add a b, ?sub, BitVec.toNat_xor a b, toNat_rotlW (bits_pos w) a n, toNat_rotrW (bits_pos w) a n⟩
  case sub =>
    rw [subW, BitVec.toNat_sub]
    congr 1
    have := b.isLt
    omega

/-! ### The word commands on registers tagged with the configured width -/

section Complete

variable {w : Width} {s : State} {ra rb : WReg} {a b : Word w}

/-- A word register written with a w-bit word whose number is known. -/
theorem setWord_eq_setWr {v : Word w} {x : Nat} (hv : v.toNat = x) :
    s.setWord w ra v = s.setWr ra (.tagged w (BitVec.ofNat 64 x)) := by
  rw [← hv, BitVec.ofNat_toNat, State.setWord]

/-- A register that holds a w-bit word under the tag w is read as that word (rule R120). -/
theorem readWord_of_holds (h : s.holds w ra a) : readWord w s ra = .ok a :=
  readWord_eq_ok.mpr ⟨_, h, (by rw [BitVec.setWidth_setWidth_of_le _ (bits_le_64 w), BitVec.setWidth_eq])⟩

/-- A command of two tagged registers completes with its result in ra (rules R120, R122). -/
theorem finish_wordBinary {f : (w : Width) → Word w → Word w → Word w} {x : Nat} (hw : s.configured w)
    (ha : s.holds w ra a) (hb : s.holds w rb b) (hx : (f w a b).toNat = x) :
    finish (wordBinary f ra rb s) s =
      .next { s.setWr ra (.tagged w (BitVec.ofNat 64 x)) with busy := false, done := true } := by
  rw [wordBinary, checkWidth_eq_ok.mpr hw, ok_bind, readWord_of_holds ha, ok_bind, readWord_of_holds hb, ok_bind,
    setWord_eq_setWr hx]
  rfl

/-- A command of a tagged register and an immediate completes with its result in ra (rules R120, R122). -/
theorem finish_wordUnary {f : (w : Width) → Word w → Word w} {x : Nat} (hw : s.configured w)
    (ha : s.holds w ra a) (hx : (f w a).toNat = x) :
    finish (wordUnary f ra s) s =
      .next { s.setWr ra (.tagged w (BitVec.ofNat 64 x)) with busy := false, done := true } := by
  rw [wordUnary, checkWidth_eq_ok.mpr hw, ok_bind, readWord_of_holds ha, ok_bind, setWord_eq_setWr hx]
  rfl

end Complete

/-- Settles O35: each of the five commands is `wordBinary` of an operation that O33 gives on naturals. -/
theorem registerPairCommandsComplete : Obligations.RegisterPairCommandsComplete := by
  intro w s ra rb a b hw ha hb p hp
  obtain ⟨hadd, hsub, hxor, hrotl, hrotr⟩ := wordArithmeticFollowsTheNaturals w a b b.toNat
  simp only [List.mem_cons, List.not_mem_nil, or_false] at hp
  rcases hp with rfl | rfl | rfl | rfl | rfl
  · exact finish_wordBinary hw ha hb hadd
  · exact finish_wordBinary hw ha hb hsub
  · exact finish_wordBinary hw ha hb hxor
  · exact finish_wordBinary hw ha hb hrotl
  · exact finish_wordBinary hw ha hb hrotr

/-- Settles O36: each of the three commands is `wordUnary`; the immediate of W_ADDB is reduced mod 2^w with the sum. -/
theorem immediateCommandsComplete : Obligations.ImmediateCommandsComplete := by
  intro w s ra n a hw ha p hp _
  obtain ⟨hadd, -, -, hrotl, hrotr⟩ := wordArithmeticFollowsTheNaturals w a (n.setWidth w.bits) n.toNat
  rw [BitVec.toNat_setWidth, Nat.add_mod_mod] at hadd
  simp only [List.mem_cons, List.not_mem_nil, or_false] at hp
  rcases hp with rfl | rfl | rfl
  · exact finish_wordUnary hw ha hadd
  · exact finish_wordUnary hw ha hrotl
  · exact finish_wordUnary hw ha hrotr

end Sys2Proof.Machine
end

section
/-! PROOFS. The moves in their order and the end of a run (rules R15, R17, R310): O7. -/

namespace Sys2Proof.Machine

/-- A step makes the first move of the schedule on the state with that move taken off. -/
theorem step_of_schedule_cons {s : State} {m : Move} {rest : List Move} (h : s.schedule = m :: rest) :
    step s = makeMove m { s with schedule := rest } := by
  rw [step, nextMove, h]

/-- With nothing scheduled the sequencer moves. -/
theorem step_of_schedule_nil {s : State} (h : s.schedule = []) : step s = coreMove s := by
  rw [step, nextMove, h]

/-- While BUSY = 0 the sequencer waits (rule R310). -/
theorem coreMove_of_idle {s : State} (h : s.busy = false) : coreMove s = .next s := by
  simp [coreMove, h]

/-- The moves that are not the host's are the sequencer's and the reset. -/
theorem isHost_eq_false_iff {m : Move} : m.isHost = false ↔ m = .core ∨ m = .reset := by
  cases m <;> simp [Move.isHost]

theorem ended_iff {s : State} :
    s.ended = true ↔ s.busy = false ∧ ∀ m ∈ s.schedule, m = .core ∨ m = .reset := by
  simp [State.ended, isHost_eq_false_iff, and_comm]

theorem good_iff {s : State} : s.good = true ↔ s.ended = true ∧ s.err = false := by
  simp [State.good]

/-- Settles O7. -/
theorem stepMakesScheduledMove : Obligations.StepMakesScheduledMove := by
  intro s rest n a v sp q b
  refine ⟨step_of_schedule_cons, step_of_schedule_cons, step_of_schedule_cons, step_of_schedule_cons,
    step_of_schedule_cons, fun h hb => ?core, fun h hb => ?nothing, ended_iff, good_iff⟩
  case core => exact (step_of_schedule_cons h).trans (coreMove_of_idle hb)
  case nothing =>
    have hended : s.ended = true := ended_iff.mpr ⟨hb, by simp [h]⟩
    exact ⟨hended, (step_of_schedule_nil h).trans (coreMove_of_idle hb), by simp [good_iff, hended]⟩

end Sys2Proof.Machine
end

section
/-! PROOFS. The lengths of the message commands' byte strings (rules R230, R234, R238), and the completion of RC5_ENCODE:
O57. -/

namespace Sys2Proof.Machine

theorem blockBytes_eq (w : Width) : w.blockBytes = 2 * w.bytes := rfl

theorem blockBytes_pos (w : Width) : 0 < w.blockBytes := by cases w <;> decide

theorem blockBytes_le_16 (w : Width) : w.blockBytes ≤ 16 := by cases w <;> decide

@[simp] theorem length_blocksOf (bb m : Nat) (x : List Byte) : (blocksOf bb m x).length = m := by
  induction m generalizing x with
  | zero => rfl
  | succ m ih => simp [blocksOf, ih]

/-- The padding fills the message up to the next multiple of the block size (rule R230). -/
theorem length_pad7 {bb : Nat} (hbb : 0 < bb) (p : List Byte) : (pad7 bb p).length = bb * (p.length / bb + 1) := by
  have hlt := Nat.mod_lt p.length hbb
  have hdiv := Nat.div_add_mod p.length bb
  rw [pad7, List.length_append, List.length_replicate, Nat.mul_add]
  omega

/-- The encode chain has one block of output for each block of input. -/
theorem length_chainEnc {enc : List Byte → List Byte} {bb : Nat} (henc : ∀ x, (enc x).length = bb) (prev : List Byte)
    (xs : List (List Byte)) : (chainEnc enc prev xs).length = bb * xs.length := by
  induction xs generalizing prev with
  | nil => rfl
  | cons x xs ih => simp only [chainEnc, List.length_append, henc, ih, List.length_cons, Nat.mul_add]; omega

/-- The encoded message is the encoded IV and one block for each block of the padded message (rule R235). -/
theorem length_encodeMsg {enc : List Byte → List Byte} {bb : Nat} (henc : ∀ x, (enc x).length = bb)
    (iv pp : List Byte) : (encodeMsg enc bb iv pp).length = bb * (pp.length / bb + 1) := by
  rw [encodeMsg, List.length_append, henc, length_chainEnc henc, length_blocksOf, Nat.mul_add, Nat.mul_one,
    Nat.add_comm]

/-- The length of the output of RC5_ENCODE (rule R235). -/
theorem length_ciphertext (w : Width) (s : State) :
    (s.ciphertext w).length = w.blockBytes * (s.inlen.toNat / w.blockBytes + 2) := by
  rw [State.ciphertext, length_encodeMsg (length_encBytes w _ _), length_pad7 (blockBytes_pos w),
    Nat.mul_div_cancel_left _ (blockBytes_pos w), length_input]

/-- The output of RC5_ENCODE fits OUTMEM: OUT_MAX is two of the widest blocks above BUF_MAX (rule R10). -/
theorem length_ciphertext_le (w : Width) {s : State} (h : s.inlen.toNat ≤ s.params.bufMax) :
    (s.ciphertext w).length ≤ s.params.outMax := by
  have hdiv := Nat.mul_div_le s.inlen.toNat w.blockBytes
  have hbb := blockBytes_le_16 w
  rw [length_ciphertext, Nat.mul_add, Params.outMax]
  omega

/-- RC5_ENCODE with its checks passed: the table is rebuilt and the ciphertext is the output (rule R236). -/
theorem exec_rc5Encode_of_ok {w : Width} {s : State} (h : checkEncode s = .ok w) :
    exec .rc5Encode s = .next ((s.buildTable w).setOutput (s.ciphertext w)).complete := by
  rw [exec, execRc5Encode, h]
  rfl

/-- Settles O57. -/
theorem encodeWritesTheCiphertext : Obligations.EncodeWritesTheCiphertext := by
  intro w s hw hr hiv hk hkmax hin hp bb
  have hk0 : s.keylen.toNat ≠ 0 := fun h => hk (BitVec.eq_of_toNat_eq h)
  have hlen : (s.ciphertext w).length = bb * (s.inlen.toNat / bb + 2) := length_ciphertext w s
  have hout : bb * (s.inlen.toNat / bb + 2) ≤ s.params.outMax := hlen ▸ length_ciphertext_le w hin
  have hnat : (BitVec.ofNat 32 (s.ciphertext w).length).toNat = bb * (s.inlen.toNat / bb + 2) := by
    obtain ⟨-, hbuf⟩ := hp.bufMax
    rw [Params.outMax] at hout
    rw [hlen, BitVec.toNat_ofNat, Nat.mod_eq_of_lt (by omega)]
  refine ⟨_, exec_rc5Encode_of_ok (checkEncode_eq_ok.mpr ⟨hw, hr, hiv, hk0, hkmax, hin⟩), ?state, hnat, ?cap, ?bytes,
    ?len⟩
  case state =>
    rw [← hlen]
    rfl
  case cap => exact hnat.trans_le hout
  case bytes =>
    intro a
    simp [memGet_memOfBytes]
  case len => exact hlen.trans hnat.symm

end Sys2Proof.Machine
end

section
/-! PROOFS. What a run of LEH_GEN records after each element (rules R153 to R157): the bounds that a legal state keeps. -/

namespace Sys2Proof.Machine

/-- What the loop of LEH_GEN has recorded after k of n elements, each element being below B. -/
structure LehRun.After (B n k : Nat) (r : LehRun) : Prop where
  length : r.seq.length = k
  values : ∀ x ∈ r.seq, x < B
  indices : ∀ p ∈ r.seen, p.2 < k
  found : ∀ f, r.found = some f → 0 < f.1 ∧ f.1 ≤ f.2 ∧ f.2 < k
  progress : r.progress = lehProgressAfter k n

/-- What one iteration does: the next value is stored with its progress, and the seen map and the period stand as they
were, or the value is new and seen at index i, or it was seen at index j and the period is recorded (rules R153, R155). -/
theorem lehIter_cases (A C M n i : Nat) (r : LehRun) :
    ∃ seen found,
      lehIter A C M n i r =
        ⟨r.seq ++ [lehNext A C M r.cur], lehNext A C M r.cur, seen, found, lehProgressAfter (i + 1) n⟩ ∧
      ((seen = r.seen ∧ found = r.found) ∨ (seen = r.seen ++ [(lehNext A C M r.cur, i)] ∧ found = none) ∨
        ∃ j, (lehNext A C M r.cur, j) ∈ r.seen ∧ seen = r.seen ∧ found = some (i - j, i)) := by
  cases hf : r.found with
  | some f => exact ⟨r.seen, some f, by simp only [lehIter, hf], .inl ⟨rfl, rfl⟩⟩
  | none =>
    cases hl : r.seen.lookup (lehNext A C M r.cur) with
    | none => exact ⟨_, none, by simp only [lehIter, hf, hl], .inr (.inl ⟨rfl, rfl⟩)⟩
    | some j =>
      obtain ⟨l₁, l₂, hmem, -⟩ := List.lookup_eq_some_iff.mp hl
      exact ⟨_, some (i - j, i), by simp only [lehIter, hf, hl], .inr (.inr ⟨j, by simp [hmem], rfl, rfl⟩)⟩

theorem lehStart_after {B n X0 : Nat} (hX : X0 < B) : (lehStart n X0).After B n 1 where
  length := rfl
  values := by simpa [lehStart] using hX
  indices := by simp [lehStart]
  found := by simp [lehStart]
  progress := rfl

/-- One iteration records one element more. -/
theorem lehIter_after {A C M B n k : Nat} {r : LehRun} (hM : 0 < M) (hB : M ≤ B) (h : r.After B n k) :
    (lehIter A C M n k r).After B n (k + 1) := by
  have hvalues : ∀ x ∈ r.seq ++ [lehNext A C M r.cur], x < B := by
    simpa [or_imp, forall_and] using ⟨h.values, (Nat.mod_lt _ hM).trans_le hB⟩
  have hindices : ∀ p ∈ r.seen, p.2 < k + 1 := fun p hp => (h.indices p hp).trans (Nat.lt_succ_self k)
  obtain ⟨seen, found, hr, hcases⟩ := lehIter_cases A C M n k r
  rw [hr]
  refine ⟨by simp [h.length], hvalues, ?indices, ?found, rfl⟩
  case indices =>
    rcases hcases with ⟨rfl, -⟩ | ⟨rfl, -⟩ | ⟨-, -, rfl, -⟩
    · exact hindices
    · simpa [or_imp, forall_and] using hindices
    · exact hindices
  case found =>
    intro f hf
    rcases hcases with ⟨-, rfl⟩ | ⟨-, rfl⟩ | ⟨j, hj, -, rfl⟩
    · obtain ⟨hpos, hle, hlt⟩ := h.found f hf
      exact ⟨hpos, hle, hlt.trans (Nat.lt_succ_self k)⟩
    · cases hf
    · have hjk : j < k := h.indices _ hj
      cases hf
      exact ⟨Nat.sub_pos_of_lt hjk, Nat.sub_le k j, Nat.lt_succ_self k⟩

theorem lehLoop_after {A C M B n : Nat} (hM : 0 < M) (hB : M ≤ B) (m : Nat) {k : Nat} {r : LehRun}
    (h : r.After B n k) : (lehLoop A C M n m k r).After B n (k + m) := by
  induction m generalizing k r with
  | zero => exact h
  | succ m ih =>
    have := ih (lehIter_after (A := A) (C := C) hM hB h)
    rwa [Nat.add_assoc, Nat.add_comm 1 m] at this

/-- The whole generation records n elements (rule R155). -/
theorem lehRun_after {A C M X0 B n : Nat} (hM : 0 < M) (hB : M ≤ B) (hX : X0 < B) (hn : 0 < n) :
    (lehRun A C M X0 n).After B n n := by
  have := lehLoop_after (A := A) (C := C) hM hB (n - 1) (lehStart_after (n := n) hX)
  rwa [Nat.add_sub_cancel' hn] at this

/-- After the last element the progress is 100 (rule R157). -/
theorem lehProgressAfter_self {n : Nat} (hn : 0 < n) : lehProgressAfter n n = 100 :=
  Nat.mul_div_cancel 100 hn

end Sys2Proof.Machine
end

section
/-! PROOFS. The length of the output of RC5_DECODE (rules R238, R240). -/

namespace Sys2Proof.Machine

/-- The decode chain has at most one block of output for each block of input. -/
theorem length_chainDec_le {dec : List Byte → List Byte} {bb : Nat} (hdec : ∀ x, (dec x).length = bb)
    (prev : List Byte) (cs : List (List Byte)) : (chainDec dec prev cs).length ≤ bb * cs.length := by
  induction cs generalizing prev with
  | nil => exact Nat.zero_le _
  | cons c cs ih =>
    have hrest := ih c
    have hblock : (xorBytes (dec c) prev).length ≤ bb := by
      rw [xorBytes, List.length_zipWith, hdec]
      exact Nat.min_le_left _ _
    simp only [chainDec, List.length_append, List.length_cons, Nat.mul_add]
    omega

/-- The recovered buffer is no longer than the ciphertext (rule R238). -/
theorem length_recovered_le (w : Width) (s : State) : (s.recovered w).length ≤ s.inlen.toNat := by
  have hchain := length_chainDec_le (length_decBytes w (expandKey s.params w s.cfgRounds.toNat s.keyBytes)
    s.cfgRounds.toNat)
  refine (hchain _ _).trans ?_
  rw [length_blocksOf, length_input]
  calc w.blockBytes * (s.inlen.toNat / w.blockBytes - 1)
      ≤ w.blockBytes * (s.inlen.toNat / w.blockBytes) := Nat.mul_le_mul_left _ (Nat.sub_le _ _)
    _ ≤ s.inlen.toNat := Nat.mul_div_le _ _

/-- Stripping the padding only shortens (rule R240). -/
theorem length_le_of_stripPadding {r out : List Byte} (h : stripPadding r = .ok out) : out.length ≤ r.length := by
  unfold stripPadding at h
  split at h
  · cases h
  · split at h
    · cases h
    · cases h
      exact List.length_take_le' _ _

end Sys2Proof.Machine
end

section
/-! PROOFS. The parts of a legal state: the contents, which the flags do not touch, and the flags with the error record,
which a command writes at its end only. -/

namespace Sys2Proof.Machine

/-- The part of a legal state that is neither a flag, nor the error record, nor the mark of a running command. -/
structure State.ContentsLegal (s : State) : Prop where
  params : s.params.Legal
  table : s.tableLegal
  lehmer : s.lehmerLegal
  widths : s.lehmerWidths
  words : ∀ r, (s.wr r).legal = true
  spaces : ∀ sp, s.memLegal sp

theorem inv_iff {s : State} :
    s.Inv ↔ s.ContentsLegal ∧ s.flagsLegal ∧ s.errorLegal ∧ (s.busy = true → s.seen ≤ lastPoint s) := by
  constructor
  · intro h
    refine ⟨⟨h.params, h.table, h.lehmer, h.widths, fun r => ?_, fun sp => ?_⟩, h.flags, h.error, h.seen⟩
    · cases r
      exacts [h.wr0, h.wr1, h.wr2, h.wr3]
    · cases sp
      exacts [h.keymem, h.inmem, h.outmem]
  · rintro ⟨h, hflags, herror, hseen⟩
    exact ⟨h.params, hflags, herror, h.table, h.lehmer, h.widths, hseen, h.words .wr0, h.words .wr1, h.words .wr2,
      h.words .wr3, h.spaces .keymem, h.spaces .inmem, h.spaces .outmem⟩

/-- CMD, the flags BUSY, DONE and ERR, and the error record (rules R23 to R26). -/
structure Flags where
  cmd : BitVec 32
  busy : Bool
  done : Bool
  err : Bool
  errcode : BitVec 4
  errinfo : BitVec 32
  errcmd : BitVec 32

def State.flags (s : State) : Flags := ⟨s.cmd, s.busy, s.done, s.err, s.errcode, s.errinfo, s.errcmd⟩

/-- A write of a command or of the host into registers and memories: the flags and the error record stay, and legal
contents stay legal. -/
structure State.Writes (s t : State) : Prop where
  flags : t.flags = s.flags
  contents : s.ContentsLegal → t.ContentsLegal

namespace State.Writes

variable {s t u : State}

theorem refl (s : State) : s.Writes s := ⟨rfl, id⟩

theorem trans (h : s.Writes t) (h' : t.Writes u) : s.Writes u :=
  ⟨h'.flags.trans h.flags, h'.contents ∘ h.contents⟩

theorem cmd_eq (h : s.Writes t) : t.cmd = s.cmd := congrArg Flags.cmd h.flags

theorem busy_eq (h : s.Writes t) : t.busy = s.busy := congrArg Flags.busy h.flags

theorem done_eq (h : s.Writes t) : t.done = s.done := congrArg Flags.done h.flags

theorem err_eq (h : s.Writes t) : t.err = s.err := congrArg Flags.err h.flags

theorem errorLegal (h : s.Writes t) (hs : s.errorLegal) : t.errorLegal := by
  have hcode : t.errcode = s.errcode := congrArg Flags.errcode h.flags
  have hinfo : t.errinfo = s.errinfo := congrArg Flags.errinfo h.flags
  have hcmd : t.errcmd = s.errcmd := congrArg Flags.errcmd h.flags
  simpa only [State.errorLegal, h.err_eq, hcode, hinfo, hcmd] using hs

theorem flagsLegal (h : s.Writes t) (hs : s.flagsLegal) : t.flagsLegal := by
  simpa only [State.flagsLegal, h.cmd_eq, h.busy_eq, h.done_eq, h.err_eq] using hs

end State.Writes

/-! ### The contents under every update -/

section Updates

variable {s t : State}

/-- An update that keeps the parameters, the word registers and the byte spaces has to answer for the rest only. -/
theorem State.ContentsLegal.of_stores_eq (h : s.ContentsLegal) (hparams : t.params = s.params) (hwr : t.wr = s.wr)
    (hbuf : t.buf = s.buf) (table : t.tableLegal) (lehmer : t.lehmerLegal) (widths : t.lehmerWidths) :
    t.ContentsLegal := by
  refine ⟨hparams ▸ h.params, table, lehmer, widths, fun r => hwr ▸ h.words r, fun sp => ?_⟩
  simpa only [State.memLegal, hbuf, hparams] using h.spaces sp

/-- Legality of the contents does not read the flags, the error record, the registers that take any value of their width,
or the model's own fields. -/
theorem State.ContentsLegal.frame (h : s.ContentsLegal) (cmd : BitVec 32) (busy done err : Bool) (errcode : BitVec 4)
    (errinfo errcmd : BitVec 32) (cfgKlb keylen : BitVec 16) (inlen outlen lehCount : BitVec 32) (md5Acc : Acc)
    (schedule : List Move) (hostData : BitVec 64) (draws seen : Nat) :
    State.ContentsLegal { s with
      cmd := cmd, busy := busy, done := done, err := err, errcode := errcode, errinfo := errinfo, errcmd := errcmd
      cfgKlb := cfgKlb, keylen := keylen, inlen := inlen, outlen := outlen, lehCount := lehCount, md5Acc := md5Acc
      schedule := schedule, hostData := hostData, draws := draws, seen := seen } :=
  h.of_stores_eq rfl rfl rfl h.table h.lehmer h.widths

/-- A register that takes any value of its width is written, or the draw counter goes on. -/
theorem writes_frame (s : State) (cfgKlb keylen : BitVec 16) (inlen outlen lehCount : BitVec 32) (md5Acc : Acc)
    (draws : Nat) :
    s.Writes { s with
      cfgKlb := cfgKlb, keylen := keylen, inlen := inlen, outlen := outlen, lehCount := lehCount, md5Acc := md5Acc
      draws := draws } :=
  ⟨rfl, fun h => h.frame ..⟩

/-- CFG_WORDSIZE and CFG_ROUNDS take any value, since KVALID is cleared with them (rule R321). -/
theorem writes_config (s : State) (wordsize rounds : BitVec 8) :
    s.Writes { s with cfgWordsize := wordsize, cfgRounds := rounds }.clearKvalid :=
  ⟨rfl, fun h => h.of_stores_eq rfl rfl rfl (fun hk => Bool.noConfusion hk) h.lehmer h.widths⟩

theorem writes_setWr (r : WReg) {v : WordReg} (hv : v.legal = true) : s.Writes (s.setWr r v) := by
  refine ⟨by simp [State.flags], fun h => ⟨by simpa using h.params, ?table, ?lehmer, ?widths, ?words, ?spaces⟩⟩
  case table => simpa only [State.tableLegal, State.configured, setWr_kvalid, setWr_cfgWordsize, setWr_cfgRounds,
    setWr_stab] using h.table
  case lehmer => simpa [State.lehmerLegal] using h.lehmer
  case widths => simpa [State.lehmerWidths] using h.widths
  case words =>
    intro q
    by_cases hq : q = r
    · subst hq
      simpa using hv
    · simpa [hq] using h.words q
  case spaces =>
    intro sp
    simpa [State.memLegal] using h.spaces sp

/-- A w-bit word is a legal value under the tag w (rule R31). -/
theorem writes_setWord (w : Width) (r : WReg) (v : Word w) : s.Writes (s.setWord w r v) := by
  refine writes_setWr r (decide_eq_true ?_)
  rw [BitVec.toNat_setWidth]
  exact (Nat.mod_le _ _).trans_lt v.isLt

theorem writes_setBuf {sp : Buf} {m : Memory}
    (hm : s.memLegal sp → memWf m ∧ ∀ c ∈ m, c.1 < bufCap s.params sp) : s.Writes (s.setBuf sp m) := by
  refine ⟨by simp [State.flags], fun h => ⟨by simpa using h.params, ?table, ?lehmer, ?widths, ?words, ?spaces⟩⟩
  case table => simpa only [State.tableLegal, State.configured, setBuf_kvalid, setBuf_cfgWordsize, setBuf_cfgRounds,
    setBuf_stab] using h.table
  case lehmer => simpa [State.lehmerLegal] using h.lehmer
  case widths => simpa [State.lehmerWidths] using h.widths
  case words => simpa using h.words
  case spaces =>
    intro sq
    by_cases hq : sq = sp
    · subst hq
      simpa only [State.memLegal, setBuf_buf_self, setBuf_params] using hm (h.spaces sq)
    · simpa [State.memLegal, hq] using h.spaces sq

/-- Bytes written inside the capacity keep the space legal (rule R60). -/
theorem writes_writeBytes {sp : Buf} {a : Nat} {bs : List Byte} (hcap : a + bs.length ≤ bufCap s.params sp) :
    s.Writes (s.writeBytes sp a bs) := by
  refine writes_setBuf fun ⟨hwf, hbound⟩ => ⟨memWf_memSetBytes hwf a bs, fun c hc => ?_⟩
  rcases mem_memSetBytes hc with hc | ⟨-, hc⟩
  · exact hbound c hc
  · exact hc.trans_le hcap

/-- The table of the present key is one of the configured width and rounds (rules R37, R214). -/
theorem writes_buildTable {w : Width} (hw : s.configured w) (hr : s.cfgRounds ≠ 0) : s.Writes (s.buildTable w) := by
  refine ⟨rfl, fun h => h.of_stores_eq rfl rfl rfl
    (fun _ => ⟨w, by cases w <;> decide, hw, hr, ?length, ?values⟩) h.lehmer h.widths⟩
  case length => simp [State.buildTable, tableSize]
  case values =>
    intro v hv
    obtain ⟨x, -, rfl⟩ := List.mem_map.mp hv
    rw [BitVec.toNat_setWidth]
    exact (Nat.mod_le _ _).trans_lt x.isLt

/-- An output inside the capacity of OUTMEM (rule R64). -/
theorem writes_setOutput {bs : List Byte} (hcap : bs.length ≤ s.params.outMax) : s.Writes (s.setOutput bs) := by
  have hbuf : s.Writes (s.setBuf .outmem (memOfBytes 0 bs)) :=
    writes_setBuf fun _ => ⟨memWf_memOfBytes 0 bs, fun c hc => by
      have hlt := (mem_memOfBytes hc).2
      rw [bufCap]
      omega⟩
  exact hbuf.trans (writes_frame ..)

/-- A finished run leaves Lehmer results in their ranges (rules R34, R35, R38, R157). -/
theorem lehmerLegal_setSequence {r : LehRun} {B n : Nat} (hr : r.After B n n) (hpos : 0 < n) (hn : n < 2 ^ 32)
    (hmax : n ≤ s.params.seqMax) : (s.setSequence r).lehmerLegal := by
  have hlen : (s.setSequence r).lehSeqlen.toNat = n := by
    rw [setSequence_lehSeqlen, hr.length, BitVec.toNat_ofNat, Nat.mod_eq_of_lt hn]
  refine ⟨?entries, hlen.trans_le hmax, ?progress, ?period⟩
  case entries => rw [setSequence_seqmem, List.length_map, hr.length, hlen]
  case progress =>
    rw [setSequence_lehProgress, hr.progress, lehProgressAfter_self hpos]
    decide
  case period =>
    rw [hlen, setSequence_pvalid, setSequence_lehPeriod, setSequence_lehFirstocc]
    cases hf : r.found with
    | none => exact ⟨rfl, rfl⟩
    | some f =>
      obtain ⟨h0, hle, hlt⟩ := hr.found f hf
      simp only [Option.isSome_some, if_true, BitVec.toNat_ofNat]
      rw [Nat.mod_eq_of_lt (by omega), Nat.mod_eq_of_lt (by omega)]
      exact ⟨h0, hle, hlt⟩

/-- A generation of LEH_COUNT elements records a legal sequence (rules R38, R155). -/
theorem writes_setSequence (hM : s.lehM ≠ 0) (hn : s.lehCount.toNat ≠ 0) (hmax : s.lehCount.toNat ≤ s.params.seqMax) :
    s.Writes
      (s.setSequence (lehRun s.lehA.toNat s.lehC.toNat s.lehM.toNat s.lehX0.toNat s.lehCount.toNat)) := by
  refine ⟨rfl, fun h => ?_⟩
  obtain ⟨hinputs, -⟩ := h.widths
  have hpos : 0 < s.lehCount.toNat := Nat.pos_of_ne_zero hn
  have hMpos : 0 < s.lehM.toNat := Nat.pos_of_ne_zero fun h0 => hM (BitVec.eq_of_toNat_eq h0)
  have hrun := lehRun_after (A := s.lehA.toNat) (C := s.lehC.toNat) hMpos (hinputs s.lehM (by simp)).le
    (hinputs s.lehX0 (by simp)) hpos
  refine h.of_stores_eq rfl rfl rfl h.table (lehmerLegal_setSequence hrun hpos s.lehCount.isLt hmax)
    ⟨hinputs, fun v hv => ?_⟩
  obtain ⟨x, hx, rfl⟩ := List.mem_map.mp hv
  rw [BitVec.toNat_ofNat]
  exact (Nat.mod_le _ _).trans_lt (hrun.values x hx)

end Updates

end Sys2Proof.Machine
end

section
/-! PROOFS. How every command ends, and that every agent's move keeps a legal state legal: O10 and O11. -/

namespace Sys2Proof.Machine

/-! ### The end of a command -/

/-- A command ends by success or by error entry, after a write of the contents, or by SYS_CLEAR (rules R262, R265,
R280). -/
inductive State.Ends (s : State) : State → Prop
  | completed {u : State} (h : s.Writes u) : s.Ends u.complete
  | failed {u : State} (h : s.Writes u) (e : Trap) : s.Ends (u.errorEntry e)
  | cleared : s.Ends s.clearError

theorem finish_ends {r : Except Trap State} {s t : State} (h : finish r s = .next t)
    (hr : ∀ u, r = .ok u → s.Writes u) : s.Ends t := by
  rcases finish_eq_next.mp h with ⟨u, hu, rfl⟩ | ⟨e, -, rfl⟩
  · exact .completed (hr u hu)
  · exact .failed (.refl s) e

/-- A block function in place writes one block inside the length, so inside the capacity. -/
theorem writes_blockInPlace {s : State} {sp : Buf} {off : Nat} {w : Width} (hc : checkBlock s sp off = .ok w)
    (f : Word w × Word w → Word w × Word w) : s.Writes (s.blockInPlace w f sp off) := by
  obtain ⟨-, -, hlen, -, hfit⟩ := checkBlock_eq_ok.mp hc
  refine writes_writeBytes ?_
  rw [List.length_append, length_wordBytes, length_wordBytes]
  rw [blockBytes_eq] at hfit
  omega

/-- The MD5 outputs, of 16 and of 32 bytes, fit OUTMEM at every BUF_MAX (rule R10). -/
theorem writes_md5Output {s : State} (acc : Acc) {bs : List Byte} (hbs : bs.length ≤ 32) :
    s.Writes ({ s with md5Acc := acc }.setOutput bs) :=
  (writes_frame s _ _ _ _ _ acc _).trans (writes_setOutput (hbs.trans (Nat.le_add_left 32 s.params.bufMax)))

/-- RC5_DECODE ends before its first write, with the message, or with InvalidPadding and an empty output (rules R238,
R281). -/
theorem execRc5Decode_ends {s t : State} (h : execRc5Decode s = .next t) : s.Ends t := by
  simp only [execRc5Decode] at h
  split at h
  · cases h
    exact .failed (.refl s) _
  · rename_i w hw
    obtain ⟨hw, hr, -, -, hin, -, -⟩ := checkDecode_eq_ok.mp hw
    have htable := writes_buildTable hw hr
    split at h
    · rename_i out hout
      cases h
      refine .completed (htable.trans (writes_setOutput ?_))
      have hlen : out.length ≤ s.inlen.toNat := (length_le_of_stripPadding hout).trans (length_recovered_le w s)
      exact (hlen.trans hin).trans (Nat.le_add_right s.params.bufMax 32)
    · cases h
      exact .failed (htable.trans (writes_setOutput (Nat.zero_le _))) _

theorem exec_ends {i : Instr} {s t : State} (h : exec i s = .next t) : s.Ends t := by
  cases i
  case sysNop =>
    cases h
    exact .completed (.refl s)
  case sysClear =>
    cases h
    exact .cleared
  case md5Init =>
    cases h
    exact .completed (writes_frame ..)
  case rc5Decode => exact execRc5Decode_ends h
  case wAdd | wSub | wXor | wRolv | wRorv =>
    refine finish_ends h fun u hu => ?_
    obtain ⟨w, a, b, -, -, -, rfl⟩ := wordBinary_eq_ok hu
    exact writes_setWord ..
  case wAddb | wRol | wRor =>
    refine finish_ends h fun u hu => ?_
    obtain ⟨w, a, -, -, rfl⟩ := wordUnary_eq_ok hu
    exact writes_setWord ..
  all_goals
    refine finish_ends h fun u hu => ?_
    simp only [bind_eq_ok, pure, Except.pure, Except.ok.injEq] at hu
  case wLd =>
    obtain ⟨w, -, -, -, -, -, rfl⟩ := hu
    exact writes_setWord ..
  case wSt =>
    obtain ⟨w, -, _, hcap, v, -, _, hfit, rfl⟩ := hu
    refine writes_writeBytes ?_
    rw [length_wordBytes]
    exact (checkBounds_eq_ok.mp hfit).trans (checkCapacity_eq_ok.mp hcap)
  case wMov =>
    obtain ⟨w, -, v, -, rfl⟩ := hu
    exact writes_setWord ..
  case lehGen =>
    obtain ⟨_, hc, rfl⟩ := hu
    obtain ⟨hM, hn, hmax⟩ := checkLehmer_eq_ok.mp hc
    exact writes_setSequence hM hn hmax
  case md5Block =>
    obtain ⟨-, -, -, -, rfl⟩ := hu
    exact writes_frame ..
  case md5Digest =>
    obtain ⟨-, -, rfl⟩ := hu
    exact writes_md5Output _ (by simp)
  case md5Hex =>
    obtain ⟨-, -, rfl⟩ := hu
    exact writes_md5Output _ (by simp)
  case rc5Expand =>
    obtain ⟨w, hc, rfl⟩ := hu
    obtain ⟨hw, hr, -, -⟩ := checkExpand_eq_ok.mp hc
    exact writes_buildTable hw hr
  case rc5Encblk =>
    obtain ⟨w, hc, rfl⟩ := hu
    exact writes_blockInPlace hc _
  case rc5Decblk =>
    obtain ⟨w, hc, rfl⟩ := hu
    exact writes_blockInPlace hc _
  case rc5Encode =>
    obtain ⟨w, hc, rfl⟩ := hu
    obtain ⟨hw, hr, -, -, -, hin⟩ := checkEncode_eq_ok.mp hc
    exact (writes_buildTable hw hr).trans (writes_setOutput (length_ciphertext_le w hin))

/-! ### The sequencer's move -/

theorem errorEntry_inv {s : State} (h : s.ContentsLegal) (e : Trap) : (s.errorEntry e).Inv := by
  refine inv_iff.mpr ⟨h.frame .., by simp [State.flagsLegal], ?_, by simp⟩
  cases he : e.err <;> simp [State.errorLegal, he, Err.code]

theorem clearError_inv {s : State} (h : s.ContentsLegal) : s.clearError.Inv :=
  inv_iff.mpr ⟨h.frame .., by simp [State.flagsLegal], by simp [State.errorLegal], by simp⟩

/-- Successful completion is legal where no error stands, since DONE and ERR exclude each other (rule R263). -/
theorem complete_inv {s : State} (h : s.ContentsLegal) (herror : s.errorLegal) (herr : s.err = false) :
    s.complete.Inv :=
  inv_iff.mpr ⟨h.frame .., by simp [State.flagsLegal, herr], herror, by simp⟩

/-- A command that starts with ERR = 0 ends in a legal state. -/
theorem exec_keeps_inv {i : Instr} {s t : State} (hs : s.Inv) (herr : s.err = false) (h : exec i s = .next t) :
    t.Inv := by
  obtain ⟨hcontents, -, herror, -⟩ := inv_iff.mp hs
  cases exec_ends h with
  | completed hu => exact complete_inv (hu.contents hcontents) (hu.errorLegal herror) (hu.err_eq.trans herr)
  | failed hu e => exact errorEntry_inv (hu.contents hcontents) e
  | cleared => exact clearError_inv hcontents

/-- While ERR = 1 the accepted word is SYS_CLEAR (rule R261), which clears the error. -/
theorem coreMove_keeps_inv {s t : State} (hs : s.Inv) (h : coreMove s = .next t) : t.Inv := by
  obtain ⟨hcontents, ⟨-, -, hclear⟩, -, -⟩ := inv_iff.mp hs
  cases hbusy : s.busy with
  | false =>
    rw [coreMove_of_idle hbusy] at h
    cases h
    exact hs
  | true =>
    rw [coreMove, if_pos hbusy] at h
    cases herr : s.err with
    | true =>
      have hdecode : decode s.cmd = .ok .sysClear := by
        rw [hclear hbusy herr]
        rfl
      rw [hdecode] at h
      cases h
      exact clearError_inv hcontents
    | false =>
      split at h
      · exact exec_keeps_inv hs herr h
      · cases h
        exact errorEntry_inv hcontents _

/-! ### The host's moves -/

/-- A write while BUSY = 0 keeps a legal state. -/
theorem State.Writes.keeps_inv {s t : State} (h : s.Writes t) (hs : s.Inv) (hbusy : s.busy = false) : t.Inv := by
  obtain ⟨hcontents, hflags, herror, -⟩ := inv_iff.mp hs
  refine inv_iff.mpr ⟨h.contents hcontents, h.flagsLegal hflags, h.errorLegal herror, fun ht => ?_⟩
  rw [h.busy_eq, hbusy] at ht
  cases ht

/-- The model's own fields take any value; the mark stays within the run. -/
theorem State.Inv.frame {s : State} (hs : s.Inv) (schedule : List Move) (hostData : BitVec 64) (draws : Nat) {seen : Nat}
    (hseen : s.busy = true → seen ≤ lastPoint s) :
    State.Inv { s with schedule := schedule, hostData := hostData, draws := draws, seen := seen } := by
  obtain ⟨hcontents, hflags, herror, -⟩ := inv_iff.mp hs
  exact inv_iff.mpr ⟨hcontents.frame .., hflags, herror, hseen⟩

theorem lehmerWidth_lt (s : State) (v : BitVec 64) : (lehmerWidth s v).toNat < 2 ^ s.params.lw := by
  rw [lehmerWidth, BitVec.toNat_ofNat]
  exact (Nat.mod_le _ _).trans_lt (Nat.mod_lt _ (Nat.two_pow_pos _))

theorem writes_hostWriteWr (s : State) (r : WReg) (v : BitVec 64) : s.Writes (hostWriteWr s r v) := by
  unfold hostWriteWr
  split
  · exact writes_setWord ..
  · exact (writes_setWr r rfl).trans (writes_frame ..)

/-- One Lehmer input is written with an LW-bit number and the others stay (rule R32). -/
theorem writes_lehmerInput {s : State} {a c m x : BitVec 64} (v : BitVec 64)
    (h : ∀ y ∈ [a, c, m, x], y = lehmerWidth s v ∨ y ∈ [s.lehA, s.lehC, s.lehM, s.lehX0]) :
    s.Writes { s with lehA := a, lehC := c, lehM := m, lehX0 := x } := by
  refine ⟨rfl, fun hs => hs.of_stores_eq rfl rfl rfl hs.table hs.lehmer ⟨fun y hy => ?_, hs.widths.2⟩⟩
  rcases h y hy with rfl | hy
  · exact lehmerWidth_lt s v
  · exact hs.widths.1 y hy

/-- The cases are the numbers of the map in their order: the configuration at 0x04 and 0x05, the word registers at 0x0A
to 0x0D, the Lehmer inputs at 0x10 to 0x13, the numbers that are not writable, and the registers that take any value of
their width. -/
theorem writes_writeReg (s : State) (n : Nat) (v : BitVec 64) : s.Writes (writeReg s n v) := by
  unfold writeReg
  split
  case h_1 | h_2 => exact writes_config ..
  case h_7 | h_8 | h_9 | h_10 => exact writes_hostWriteWr ..
  case h_11 | h_12 | h_13 | h_14 => exact writes_lehmerInput v (by simp)
  case h_20 => exact .refl s
  all_goals exact writes_frame ..

/-- Acceptance clears DONE and starts the mark; a word other than SYS_CLEAR is accepted only while ERR = 0 (rule
R261). -/
theorem issue_keeps_inv {s : State} (hs : s.Inv) (c : BitVec 32) : (issue s c).Inv := by
  unfold issue
  split
  · exact hs
  · rename_i hc
    obtain ⟨hcontents, -, herror, -⟩ := inv_iff.mp hs
    refine inv_iff.mpr ⟨hcontents.frame .., ?_, herror, fun _ => Nat.zero_le _⟩
    simpa [State.flagsLegal, clearWord] using hc

theorem hostWrite_keeps_inv {s : State} (hs : s.Inv) (n : Nat) (v : BitVec 64) : (hostWrite s n v).Inv := by
  unfold hostWrite
  split
  · exact hs
  · rename_i hbusy
    split
    · exact issue_keeps_inv hs _
    · exact (writes_writeReg s n v).keeps_inv hs (Bool.eq_false_iff.mpr hbusy)

/-- A host read changes the value returned, the draw counter and the mark, which stays or comes to a point of the run. -/
theorem hostRead_eq (s : State) (n : Nat) :
    ∃ hostData draws seen, hostRead s n = { s with hostData := hostData, draws := draws, seen := seen } ∧
      (seen = s.seen ∨ seen ≤ lastPoint s) := by
  have hpoint (lo : Nat) : pointInFlight s lo ≤ lastPoint s := Nat.min_le_left _ _
  unfold hostRead
  split
  · unfold readBusy
    split
    · exact ⟨_, _, _, rfl, .inr (hpoint 0)⟩
    · split
      · split
        · exact ⟨_, _, _, rfl, .inr (hpoint 1)⟩
        · exact ⟨_, s.draws, s.seen, rfl, .inl rfl⟩
      · exact ⟨_, _, s.seen, rfl, .inl rfl⟩
  · exact ⟨_, s.draws, s.seen, rfl, .inl rfl⟩

theorem hostRead_keeps_inv {s : State} (hs : s.Inv) (n : Nat) : (hostRead s n).Inv := by
  obtain ⟨hostData, draws, seen, heq, hseen⟩ := hostRead_eq s n
  rw [heq]
  refine hs.frame _ _ _ fun hbusy => ?_
  rcases hseen with rfl | hseen
  · exact hs.seen hbusy
  · exact hseen

/-- A buffer write has a meaning inside its space, and writes its byte there while BUSY = 0 (rules R61, R320). -/
theorem hostBufWrite_eq_next {s t : State} {sp : Buf} {a : Nat} {b : Byte} (h : hostBufWrite s sp a b = .next t) :
    a < bufCap s.params sp ∧ (t = s ∨ s.busy = false ∧ t = s.setBuf sp (memSet (s.buf sp) a b)) := by
  unfold hostBufWrite at h
  split at h
  · cases h
  · rename_i ha
    refine ⟨Nat.not_le.mp ha, ?_⟩
    split at h
    · cases h
      exact .inl rfl
    · rename_i hbusy
      cases h
      exact .inr ⟨Bool.eq_false_iff.mpr hbusy, rfl⟩

theorem hostBufWrite_keeps_inv {s t : State} {sp : Buf} {a : Nat} {b : Byte} (hs : s.Inv)
    (h : hostBufWrite s sp a b = .next t) : t.Inv := by
  obtain ⟨ha, rfl | ⟨hbusy, rfl⟩⟩ := hostBufWrite_eq_next h
  · exact hs
  · refine (writes_setBuf fun ⟨hwf, hbound⟩ => ⟨memWf_memSet hwf a b, fun c hc => ?_⟩).keeps_inv hs hbusy
    rcases mem_memSet hc with rfl | hc
    · exact ha
    · exact hbound c hc

/-- A buffer read has a meaning inside its space, and changes the value returned and the draw counter (rules R61,
R320). -/
theorem hostBufRead_eq_next {s t : State} {sp : Space} {a : Nat} (h : hostBufRead s sp a = .next t) :
    a < spaceSize s.params sp ∧ ∃ hostData draws, t = { s with hostData := hostData, draws := draws } := by
  unfold hostBufRead at h
  split at h
  · cases h
  · rename_i ha
    refine ⟨Nat.not_le.mp ha, ?_⟩
    split at h
    · cases h
      exact ⟨_, _, rfl⟩
    · cases h
      exact ⟨_, s.draws, rfl⟩

theorem hostBufRead_keeps_inv {s t : State} {sp : Space} {a : Nat} (hs : s.Inv) (h : hostBufRead s sp a = .next t) :
    t.Inv := by
  obtain ⟨-, hostData, draws, rfl⟩ := hostBufRead_eq_next h
  exact hs.frame s.schedule hostData draws hs.seen

/-! ### Reset, and every step -/

/-- The default parameters meet the constraints of rule R10. -/
theorem configDefault_legal : Config.default.Legal := by
  constructor <;> decide

/-- The values after reset are legal contents at all legal parameters. -/
theorem reset_contentsLegal {p : Params} (hp : p.Legal) : State.ContentsLegal { State.reset with params := p } where
  params := hp
  table := fun hk => Bool.noConfusion hk
  lehmer := ⟨rfl, Nat.zero_le _, Nat.zero_le _, rfl, rfl⟩
  widths := ⟨by simp [State.reset], by simp [State.reset]⟩
  words r := by cases r <;> rfl
  spaces sp := by cases sp <;> exact ⟨List.Pairwise.nil, by simp [State.buf, State.reset]⟩

theorem reset_inv {p : Params} (hp : p.Legal) : State.Inv { State.reset with params := p } :=
  inv_iff.mpr ⟨reset_contentsLegal hp, by simp [State.flagsLegal, State.reset], ⟨rfl, rfl, rfl⟩, fun hb => Bool.noConfusion hb⟩

/-- Settles O10. -/
theorem resetStateIsLegal : Obligations.ResetStateIsLegal :=
  reset_inv configDefault_legal

theorem resetEvent_keeps_inv {s : State} (hs : s.Inv) : (resetEvent s).Inv :=
  (reset_inv hs.params).frame _ _ _ fun hb => Bool.noConfusion hb

/-- A move that answers a next state is one with a meaning. -/
theorem hasMeaning_of_makeMove {m : Move} {s t : State} (h : makeMove m s = .next t) :
    m.hasMeaning s.params = true := by
  cases m with
  | bufWrite sp a b => exact decide_eq_true (hostBufWrite_eq_next h).1
  | bufRead sp a => exact decide_eq_true (hostBufRead_eq_next h).1
  | core | reset | write | read => rfl

theorem makeMove_keeps_params {m : Move} {s t : State} (h : makeMove m s = .next t) : t.params = s.params := by
  obtain ⟨u, hu, -, hparams⟩ := makeMove_next m s (hasMeaning_of_makeMove h)
  cases hu.symm.trans h
  exact hparams

/-- Every move of every agent keeps a legal state legal. -/
theorem makeMove_keeps_inv {m : Move} {s t : State} (hs : s.Inv) (h : makeMove m s = .next t) : t.Inv := by
  cases m with
  | core => exact coreMove_keeps_inv hs h
  | reset =>
    cases h
    exact resetEvent_keeps_inv hs
  | write n v =>
    cases h
    exact hostWrite_keeps_inv hs n v
  | read n =>
    cases h
    exact hostRead_keeps_inv hs n
  | bufWrite sp a b => exact hostBufWrite_keeps_inv hs h
  | bufRead sp a => exact hostBufRead_keeps_inv hs h

/-- Settles O11: a step is the first move of the schedule, or the sequencer's when none is left. -/
theorem stepKeepsLegalStates : Obligations.StepKeepsLegalStates := by
  intro s t hs h
  cases hsched : s.schedule with
  | nil =>
    rw [step_of_schedule_nil hsched] at h
    exact ⟨coreMove_keeps_inv hs h, makeMove_keeps_params (m := .core) h⟩
  | cons m rest =>
    rw [step_of_schedule_cons hsched] at h
    have hparams := makeMove_keeps_params h
    exact ⟨makeMove_keeps_inv (hs.frame rest s.hostData s.draws hs.seen) h, hparams⟩

end Sys2Proof.Machine
end

section
/-! PROOFS. The host's register space while BUSY = 0 (rules R21, R24, R31, R43, R321): O8, O12, O13, O14, O15. -/

namespace Sys2Proof.Machine

/-! ### The host's moves while BUSY = 0 -/

theorem hostRead_of_idle {s : State} (h : s.busy = false) (n : Nat) :
    hostRead s n = { s with hostData := readReg s n } := by
  simp [hostRead, h]

theorem hostWrite_of_idle {s : State} (h : s.busy = false) {n : Nat} (hn : n ≠ 0) (v : BitVec 64) :
    hostWrite s n v = writeReg s n v := by
  simp [hostWrite, h, hn]

/-- A register write keeps BUSY. -/
theorem writeReg_busy (s : State) (n : Nat) (v : BitVec 64) : (writeReg s n v).busy = s.busy :=
  (writes_writeReg s n v).busy_eq

/-- A number that no row of the map makes writable takes no write (rules R21, R43). -/
theorem writeReg_of_not_writable {n : Nat} (s : State) (v : BitVec 64)
    (hn : n ∉ [0x04, 0x05, 0x06, 0x07, 0x08, 0x09, 0x0A, 0x0B, 0x0C, 0x0D, 0x10, 0x11, 0x12, 0x13, 0x14, 0x20, 0x21,
      0x22, 0x23]) : writeReg s n v = s := by
  unfold writeReg
  split
  case h_20 => rfl
  all_goals simp at hn

/-! ### The reset values -/

theorem readReg_reset {n : Nat} (ha : n ≠ 0x0A) (hb : n ≠ 0x0B) (hc : n ≠ 0x0C) (hd : n ≠ 0x0D) :
    readReg State.reset n = 0 := by
  unfold readReg
  split
  case h_11 | h_12 | h_13 | h_14 => contradiction
  all_goals rfl

/-- Settles O8. -/
theorem resetRegistersAreZero : Obligations.ResetRegistersAreZero :=
  ⟨fun _ => readReg_reset, rfl, fun r => by cases r <;> rfl, fun sp _ => by cases sp <;> rfl, rfl, rfl⟩

/-! ### STATUS -/

theorem getLsbD_bit (b : Bool) (i : Nat) : (bit b).getLsbD i = (decide (i = 0) && b) := by
  cases b <;> simp [bit, BitVec.getLsbD_one]

/-- STATUS bit by bit (rule R24). -/
theorem getLsbD_statusWord (busy done err kvalid pvalid : Bool) (errcode : BitVec 4) (i : Nat) :
    (statusWord busy done err kvalid pvalid errcode).getLsbD i =
      (decide (i = 0) && busy || decide (i = 1) && done || decide (i = 2) && err || decide (i = 3) && kvalid ||
        decide (i = 4) && pvalid || decide (8 ≤ i) && errcode.getLsbD (i - 8)) := by
  simp only [statusWord, BitVec.getLsbD_or, BitVec.getLsbD_shiftLeft, getLsbD_bit, BitVec.getLsbD_setWidth]
  grind

/-- Settles O12. -/
theorem statusReadsItsFields : Obligations.StatusReadsItsFields := by
  intro s v
  have hread : readReg s 0x01 = statusWord s.busy s.done s.err s.kvalid s.pvalid s.errcode := rfl
  rw [hread]
  refine ⟨fun h => hostRead_of_idle h 0x01, ?_, ?_, ?_, ?_, ?_, ?low, ?errcode, ?high, ?write, rfl, rfl⟩
  case low | errcode | high =>
    refine BitVec.eq_of_getLsbD_eq fun i hi => ?_
    rw [BitVec.getLsbD_extractLsb', getLsbD_statusWord]
    grind
  case write =>
    unfold hostWrite
    split <;> rfl
  all_goals
    rw [getLsbD_statusWord]
    simp

/-! ### The word registers -/

theorem writeReg_word (s : State) (r : WReg) (v : BitVec 64) : writeReg s (0x0A + r.number) v = hostWriteWr s r v := by
  cases r <;> rfl

theorem readReg_word (s : State) (r : WReg) : readReg s (0x0A + r.number) = s.wrRead r := by
  cases r <;> rfl

theorem wrRead_of_tagged {s : State} {r : WReg} {w : Width} {x : BitVec 64} (h : s.wr r = .tagged w x) :
    s.wrRead r = x := by
  rw [State.wrRead, h]

theorem wrRead_of_untagged {s : State} {r : WReg} (h : s.wr r = .untagged) :
    s.wrRead r = Config.free s.draws (.word r) := by
  rw [State.wrRead, h]

theorem widthOf_eq_none {s : State} (h : s.unsupported) : widthOf s.cfgWordsize = none := by
  obtain ⟨h16, h32, h64⟩ := h
  rw [widthOf, if_neg h16, if_neg h32, if_neg h64]

/-- Under a supported width the value is reduced mod 2^w (rule R31). -/
theorem hostWriteWr_of_configured {s : State} {w : Width} (h : s.configured w) (r : WReg) (v : BitVec 64) :
    hostWriteWr s r v = s.setWr r (.tagged w (BitVec.ofNat 64 (v.toNat % 2 ^ w.bits))) := by
  rw [hostWriteWr, widthOf_eq_some.mpr h]
  exact setWord_eq_setWr (BitVec.toNat_setWidth ..)

theorem hostWriteWr_of_unsupported {s : State} (h : s.unsupported) (r : WReg) (v : BitVec 64) :
    hostWriteWr s r v = { s.setWr r .untagged with draws := s.draws + 1 } := by
  rw [hostWriteWr, widthOf_eq_none h]

/-- Settles O14. -/
theorem wordRegisterHostAccess : Obligations.WordRegisterHostAccess := by
  intro s v r hbusy
  have hwrite : hostWrite s (0x0A + r.number) v = hostWriteWr s r v := by
    rw [hostWrite_of_idle hbusy (by omega), writeReg_word]
  have hread {t : State} (ht : t.busy = false) : hostRead t (0x0A + r.number) = { t with hostData := t.wrRead r } := by
    rw [hostRead_of_idle ht, readReg_word]
  refine ⟨fun w hw => ?supported, fun hw => ?unsupported, fun w x hr => ?tagged, fun hr => ?untagged⟩
  case supported =>
    refine ⟨hwrite.trans (hostWriteWr_of_configured hw r v), ?_⟩
    rw [hread (by simpa using hbusy), wrRead_of_tagged (setWr_wr_self ..)]
  case unsupported =>
    refine ⟨hwrite.trans (hostWriteWr_of_unsupported hw r v), ?_⟩
    rw [hread (by simpa using hbusy), wrRead_of_untagged]
    cases r <;> rfl
  case tagged => rw [hread hbusy, wrRead_of_tagged hr]
  case untagged => rw [hread hbusy, wrRead_of_untagged hr]

/-! ### KVALID under the host's writes -/

theorem hostWriteWr_kvalid (s : State) (r : WReg) (v : BitVec 64) : (hostWriteWr s r v).kvalid = s.kvalid := by
  unfold hostWriteWr
  split <;> simp [State.setWord]

theorem writeReg_kvalid {s : State} {n : Nat} (h4 : n ≠ 0x04) (h5 : n ≠ 0x05) (v : BitVec 64) :
    (writeReg s n v).kvalid = s.kvalid := by
  unfold writeReg
  split
  case h_1 | h_2 => contradiction
  case h_7 | h_8 | h_9 | h_10 => exact hostWriteWr_kvalid ..
  all_goals rfl

theorem issue_kvalid (s : State) (c : BitVec 32) : (issue s c).kvalid = s.kvalid := by
  unfold issue
  split <;> rfl

/-- Settles O15. -/
theorem configurationWriteClearsKvalid : Obligations.ConfigurationWriteClearsKvalid := by
  intro s v n a b hbusy
  refine ⟨hostWrite_of_idle hbusy (by decide) v, hostWrite_of_idle hbusy (by decide) v, fun h4 h5 => ?other,
    fun t ht => ?keymem⟩
  case other =>
    by_cases hn : n = 0
    · simp [hostWrite, hbusy, hn, issue_kvalid]
    · rw [hostWrite_of_idle hbusy hn, writeReg_kvalid h4 h5]
  case keymem =>
    obtain ⟨-, rfl | ⟨-, rfl⟩⟩ := hostBufWrite_eq_next ht
    · rfl
    · rfl

/-! ### The register map as a table -/

/-- The rows of the register map (rule R43) other than STATUS and the word registers, with the value a read returns. -/
def registerTable (s : State) : List (Nat × BitVec 64) :=
  [(0x00, 0), (0x02, s.errinfo.setWidth 64), (0x03, s.errcmd.setWidth 64), (0x04, s.cfgWordsize.setWidth 64),
    (0x05, s.cfgRounds.setWidth 64), (0x06, s.cfgKlb.setWidth 64), (0x07, s.keylen.setWidth 64),
    (0x08, s.inlen.setWidth 64), (0x09, s.outlen.setWidth 64), (0x10, s.lehA), (0x11, s.lehC), (0x12, s.lehM),
    (0x13, s.lehX0), (0x14, s.lehCount.setWidth 64), (0x15, s.lehSeqlen.setWidth 64),
    (0x16, s.lehPeriod.setWidth 64), (0x17, s.lehFirstocc.setWidth 64), (0x18, s.lehProgress.setWidth 64),
    (0x20, s.md5Acc.a.setWidth 64), (0x21, s.md5Acc.b.setWidth 64), (0x22, s.md5Acc.c.setWidth 64),
    (0x23, s.md5Acc.d.setWidth 64)]

/-- The writable rows of the map other than CMD and the word registers, with the width of the register. -/
def writableRegisters (s : State) : List (Nat × Nat) :=
  [(0x04, 8), (0x05, 8), (0x06, 16), (0x07, 16), (0x08, 32), (0x09, 32), (0x10, s.params.lw), (0x11, s.params.lw),
    (0x12, s.params.lw), (0x13, s.params.lw), (0x14, 32), (0x20, 32), (0x21, 32), (0x22, 32), (0x23, 32)]

/-- Outside STATUS and the word registers a read is a look-up in the table, and 0 where it has no row. -/
theorem readReg_eq_lookup {n : Nat} (s : State) (hn : n ∉ [0x01, 0x0A, 0x0B, 0x0C, 0x0D]) :
    readReg s n = ((registerTable s).lookup n).getD 0 := by
  unfold readReg
  split
  case h_2 | h_11 | h_12 | h_13 | h_14 => simp at hn
  case h_28 =>
    rw [List.lookup_eq_none_iff.mpr]
    · rfl
    · simp_all [registerTable]
  all_goals rfl

/-- The table with another value in the row of n. -/
def setRow (n : Nat) (x : BitVec 64) (l : List (Nat × BitVec 64)) : List (Nat × BitVec 64) :=
  l.map fun e => if e.1 = n then (n, x) else e

theorem lookup_cons_of_ne {n k : Nat} (h : n ≠ k) (x : BitVec 64) (l : List (Nat × BitVec 64)) :
    ((k, x) :: l).lookup n = l.lookup n := by
  rw [List.lookup_cons, beq_false_of_ne h]

theorem lookup_setRow_self {n : Nat} {l : List (Nat × BitVec 64)} (x : BitVec 64) (h : n ∈ l.map Prod.fst) :
    (setRow n x l).lookup n = some x := by
  induction l with
  | nil => simp at h
  | cons e l ih =>
    obtain ⟨k, y⟩ := e
    by_cases hk : k = n
    · simp [setRow, hk]
    · have hn : n ∈ l.map Prod.fst := by simpa [Ne.symm hk] using h
      simpa [setRow, hk, lookup_cons_of_ne (Ne.symm hk)] using ih hn

theorem lookup_setRow_ne {n m : Nat} (x : BitVec 64) (h : m ≠ n) (l : List (Nat × BitVec 64)) :
    (setRow n x l).lookup m = l.lookup m := by
  induction l with
  | nil => rfl
  | cons e l ih =>
    obtain ⟨k, y⟩ := e
    by_cases hk : k = n
    · simpa [setRow, hk, lookup_cons_of_ne h] using ih
    · rw [setRow] at ih
      simp [setRow, hk, List.lookup_cons, ih]

/-- The value a register of width n holds after a write of v, as a read returns it (rule R21). -/
theorem setWidth_setWidth_eq_ofNat_mod (v : BitVec 64) (n : Nat) :
    (v.setWidth n).setWidth 64 = BitVec.ofNat 64 (v.toNat % 2 ^ n) := by
  rw [← BitVec.toNat_setWidth, BitVec.ofNat_toNat]

/-- A write to a writable register changes its row of the table only (rules R21, R43). -/
theorem registerTable_writeReg (s : State) (v : BitVec 64) :
    ∀ p ∈ writableRegisters s,
      registerTable (writeReg s p.1 v) = setRow p.1 (BitVec.ofNat 64 (v.toNat % 2 ^ p.2)) (registerTable s) := by
  simp [writableRegisters, registerTable, writeReg, setRow, lehmerWidth, setWidth_setWidth_eq_ofNat_mod]

/-- Every writable register has a row of the table. -/
theorem mem_keys_of_writable {s : State} {p : Nat × Nat} (h : p ∈ writableRegisters s) :
    p.1 ∈ (registerTable s).map Prod.fst := by
  have hkeys : ∀ p ∈ writableRegisters s, p.1 ∈ (registerTable s).map Prod.fst := by
    simp [writableRegisters, registerTable]
  exact hkeys p h

/-- CMD, STATUS and the word registers are not among the writable registers of the table. -/
theorem not_mem_special_of_writable {s : State} {p : Nat × Nat} (h : p ∈ writableRegisters s) :
    p.1 ∉ [0x00, 0x01, 0x0A, 0x0B, 0x0C, 0x0D] := by
  have hkeys : ∀ p ∈ writableRegisters s, p.1 ∉ [0x00, 0x01, 0x0A, 0x0B, 0x0C, 0x0D] := by
    simp [writableRegisters]
  exact hkeys p h

/-- A writable register reads v mod 2^n after a write of v (rule R21). -/
theorem readReg_writeReg_self {s : State} {p : Nat × Nat} (h : p ∈ writableRegisters s) (v : BitVec 64) :
    readReg (writeReg s p.1 v) p.1 = BitVec.ofNat 64 (v.toNat % 2 ^ p.2) := by
  have hspecial := not_mem_special_of_writable h
  rw [readReg_eq_lookup _ (List.not_mem_of_not_mem_cons hspecial), registerTable_writeReg s v p h,
    lookup_setRow_self _ (mem_keys_of_writable h), Option.getD_some]

/-- Every other register but STATUS and the word registers reads as before (rule R43). -/
theorem readReg_writeReg_ne {s : State} {p : Nat × Nat} (h : p ∈ writableRegisters s) (v : BitVec 64) {n : Nat}
    (hn : n ∉ [p.1, 0x01, 0x0A, 0x0B, 0x0C, 0x0D]) : readReg (writeReg s p.1 v) n = readReg s n := by
  obtain ⟨hne, hspecial⟩ := List.ne_and_not_mem_of_not_mem_cons hn
  rw [readReg_eq_lookup _ hspecial, readReg_eq_lookup _ hspecial, registerTable_writeReg s v p h,
    lookup_setRow_ne _ hne]

/-- Settles O13: what the reads show is the table of the map, in which a write changes one row. -/
theorem registerSpaceFollowsTheMap : Obligations.RegisterSpaceFollowsTheMap := by
  intro s v n hbusy
  refine ⟨?reads, fun hn => ?unmapped, fun p hp => ?writes, ?fields, fun hn => ?readOnly⟩
  case reads =>
    intro p hp
    rw [hostRead_of_idle hbusy]
    have hrows : ∀ p ∈ registerTable s, readReg s p.1 = p.2 := by simp [registerTable, readReg]
    rw [hrows p hp]
  case unmapped =>
    have hlookup : (registerTable s).lookup n = none :=
      List.lookup_eq_none_iff.mpr (by simp_all [registerTable])
    rw [hostRead_of_idle hbusy, readReg_eq_lookup s (by simp_all), hlookup]
    rfl
  case writes =>
    have hp : p ∈ writableRegisters s := hp
    have hzero : p.1 ≠ 0 := List.ne_of_not_mem_cons (not_mem_special_of_writable hp)
    have hread (m : Nat) : (hostRead (hostWrite s p.1 v) m).hostData = readReg (writeReg s p.1 v) m := by
      rw [hostWrite_of_idle hbusy hzero, hostRead_of_idle ((writeReg_busy s p.1 v).trans hbusy)]
    refine ⟨(hread p.1).trans (readReg_writeReg_self hp v), fun hn => ?_⟩
    rw [hread, readReg_writeReg_ne hp v hn, hostRead_of_idle hbusy]
  case fields =>
    have hwrite {m : Nat} (hm : m ≠ 0) : hostWrite s m v = writeReg s m v := hostWrite_of_idle hbusy hm v
    simp [hwrite, writeReg, lehmerWidth]
  case readOnly =>
    obtain ⟨hzero, hn⟩ := List.ne_and_not_mem_of_not_mem_cons hn
    rw [hostWrite_of_idle hbusy hzero, writeReg_of_not_writable s v hn]

end Sys2Proof.Machine
end

section
/-! PROOFS. The host's buffer moves (rules R37, R38, R60, R61, R74): O19. -/

namespace Sys2Proof.Machine

section Moves

variable {s : State}

theorem hostBufRead_of_inside {q : Space} {a : Nat} (hbusy : s.busy = false) (ha : a < spaceSize s.params q) :
    hostBufRead s q a = .next { s with hostData := unitAt s q a } := by
  simp [hostBufRead, Nat.not_le.mpr ha, hbusy]

theorem hostBufRead_of_outside {q : Space} {a : Nat} (ha : spaceSize s.params q ≤ a) :
    hostBufRead s q a = .fault (.outsideSpace q a) := by
  simp [hostBufRead, ha]

theorem hostBufWrite_of_inside {sp : Buf} {a : Nat} (hbusy : s.busy = false) (ha : a < bufCap s.params sp) (b : Byte) :
    hostBufWrite s sp a b = .next (s.setBuf sp (memSet (s.buf sp) a b)) := by
  simp [hostBufWrite, Nat.not_le.mpr ha, hbusy]

theorem hostBufWrite_of_outside {sp : Buf} {a : Nat} (ha : bufCap s.params sp ≤ a) (b : Byte) :
    hostBufWrite s sp a b = .fault (.outsideSpace (.bytes sp) a) := by
  simp [hostBufWrite, ha]

theorem byteAt_of_written {sp : Buf} {a : Nat} {b : Byte} (h : memGet (s.buf sp) a = some b) : s.byteAt sp a = b := by
  rw [State.byteAt, h]

theorem byteAt_of_unwritten {sp : Buf} {a : Nat} (h : memGet (s.buf sp) a = none) :
    s.byteAt sp a = (Config.free s.draws (.byte sp a)).setWidth 8 := by
  rw [State.byteAt, h]

/-- An entry of a valid key table (rule R37). -/
theorem unitAt_stab_of_valid {a : Nat} {v : BitVec 64} (hk : s.kvalid = true) (ha : a < tableSize s.cfgRounds.toNat)
    (hv : s.stab[a]? = some v) : unitAt s .stab a = v := by
  simp [unitAt, hk, ha, State.stabEntry, hv]

/-- Outside a valid key table STAB reads the free value (rule R37). -/
theorem unitAt_stab_of_invalid {a : Nat} (h : s.kvalid = false ∨ tableSize s.cfgRounds.toNat ≤ a) :
    unitAt s .stab a = Config.free s.draws (.stab a) := by
  refine if_neg fun hvalid => ?_
  obtain ⟨hk, ha⟩ := Bool.and_eq_true_iff.mp hvalid
  rcases h with h | h
  · exact Bool.noConfusion (h.symm.trans hk)
  · exact Nat.not_lt.mpr h (of_decide_eq_true ha)

/-- An entry of the last sequence (rule R38). -/
theorem unitAt_seqmem_of_lt {a : Nat} {v : BitVec 64} (ha : a < s.lehSeqlen.toNat) (hv : s.seqmem[a]? = some v) :
    unitAt s .seqmem a = v := by
  simp [unitAt, State.seqEntry, hv, ha]

/-- From LEH_SEQLEN on SEQMEM reads the free value, an LW-bit number (rule R38). -/
theorem unitAt_seqmem_of_ge {a : Nat} (ha : s.lehSeqlen.toNat ≤ a) :
    unitAt s .seqmem a = lehmerWidth s (Config.free s.draws (.seq a)) := by
  rw [unitAt, State.seqEntry]
  split
  · exact if_neg (Nat.not_lt.mpr ha)
  · rfl

/-- The table of the most rounds fills STAB (rules R10, R37). -/
theorem tableSize_le_stabMax (r : BitVec 8) : tableSize r.toNat ≤ Config.stabMax := by
  have := r.isLt
  simp only [tableSize, Config.stabMax, Config.rMax]
  omega

end Moves

/-- Settles O19. -/
theorem bufferMovesReachOneUnit : Obligations.BufferMovesReachOneUnit := by
  intro s sp q a b
  refine ⟨fun hbusy => ⟨fun ha => ⟨?write, fun x hx => ?written, fun hx => ?unwritten⟩, fun v hk ha hv => ?table,
    fun h ha => ?noTable, fun x hlt ha hx => ?sequence, fun hge ha => ?noSequence⟩, hostBufRead_of_outside,
    fun ha => hostBufWrite_of_outside ha b⟩
  case write =>
    refine ⟨_, hostBufWrite_of_inside hbusy ha b, by rw [setBuf_buf_self], fun x => by simp, ?_⟩
    rw [hostBufRead_of_inside (by simpa using hbusy) (by simpa using ha), unitAt, byteAt_of_written (b := b) (by simp)]
  case written => rw [hostBufRead_of_inside hbusy ha, unitAt, byteAt_of_written hx]
  case unwritten => rw [hostBufRead_of_inside hbusy ha, unitAt, byteAt_of_unwritten hx]
  case table =>
    have hsize : a < spaceSize s.params .stab := ha.trans_le (tableSize_le_stabMax s.cfgRounds)
    rw [hostBufRead_of_inside hbusy hsize, unitAt_stab_of_valid hk ha hv]
  case noTable =>
    have hsize : a < spaceSize s.params .stab := ha
    rw [hostBufRead_of_inside hbusy hsize, unitAt_stab_of_invalid h]
  case sequence => rw [hostBufRead_of_inside hbusy ha, unitAt_seqmem_of_lt hlt hx]
  case noSequence =>
    rw [hostBufRead_of_inside hbusy ha, unitAt_seqmem_of_ge hge]
    rfl

end Sys2Proof.Machine
end

section
/-! PROOFS. The sequence a run of LEH_GEN generates (rules R150, R152, R155): O40. -/

namespace Sys2Proof.Machine

/-- After k iterations the loop has stored X0 and its first k successors, and the last of them is the current value. -/
structure LehRun.Iterates (A C M X0 k : Nat) (r : LehRun) : Prop where
  seq : r.seq = List.iterate (lehNext A C M) X0 (k + 1)
  cur : r.cur = (lehNext A C M)^[k] X0

theorem lehStart_iterates (A C M n X0 : Nat) : (lehStart n X0).Iterates A C M X0 0 := ⟨rfl, rfl⟩

theorem lehIter_iterates {A C M X0 k : Nat} {r : LehRun} (n i : Nat) (h : r.Iterates A C M X0 k) :
    (lehIter A C M n i r).Iterates A C M X0 (k + 1) := by
  obtain ⟨seen, found, hr, -⟩ := lehIter_cases A C M n i r
  have hcur : lehNext A C M r.cur = (lehNext A C M)^[k + 1] X0 := by rw [h.cur, Function.iterate_succ_apply']
  rw [hr]
  refine ⟨?_, hcur⟩
  rw [List.iterate_add _ X0 (k + 1) 1, ← h.seq, ← hcur]
  rfl

theorem lehLoop_iterates {A C M X0 : Nat} (n m : Nat) {i k : Nat} {r : LehRun} (h : r.Iterates A C M X0 k) :
    (lehLoop A C M n m i r).Iterates A C M X0 (k + m) := by
  induction m generalizing i k r with
  | zero => exact h
  | succ m ih =>
    have := ih (i := i + 1) (lehIter_iterates n i h)
    rwa [Nat.add_assoc, Nat.add_comm 1 m] at this

/-- A generation of n elements stores X0 and its n - 1 successors (rule R155). -/
theorem seq_lehRun {A C M X0 n : Nat} (hn : 0 < n) :
    (lehRun A C M X0 n).seq = List.iterate (lehNext A C M) X0 n := by
  have h := (lehLoop_iterates n (n - 1) (i := 1) (lehStart_iterates A C M n X0)).seq
  rwa [Nat.zero_add, Nat.sub_add_cancel hn] at h

/-- The run of LEH_GEN on the inputs of a state. -/
def State.lehmerRun (s : State) : LehRun :=
  lehRun s.lehA.toNat s.lehC.toNat s.lehM.toNat s.lehX0.toNat s.lehCount.toNat

/-- LEH_GEN with its checks passed completes with the sequence and the results of its run (rule R155). -/
theorem exec_lehGen_of_ok {s : State} (h : checkLehmer s = .ok ()) :
    exec .lehGen s = .next (s.setSequence s.lehmerRun).complete := by
  rw [exec, execLehGen, h]
  rfl

/-- The values of a run fit the 64 bits of an entry: X0 is a register, and every other value is below M. -/
theorem lehmerRun_after {s : State} (hM : s.lehM ≠ 0) (hn : 0 < s.lehCount.toNat) :
    s.lehmerRun.After (2 ^ 64) s.lehCount.toNat s.lehCount.toNat :=
  lehRun_after (Nat.pos_of_ne_zero fun h0 => hM (BitVec.eq_of_toNat_eq h0)) s.lehM.isLt.le s.lehX0.isLt hn

theorem lehmerRun_value_lt {s : State} (hM : s.lehM ≠ 0) {k : Nat} (hk : k < s.lehCount.toNat) :
    (lehNext s.lehA.toNat s.lehC.toNat s.lehM.toNat)^[k] s.lehX0.toNat < 2 ^ 64 := by
  have hpos : 0 < s.lehCount.toNat := by omega
  refine (lehmerRun_after hM hpos).values _ ?_
  rw [State.lehmerRun, seq_lehRun hpos]
  exact List.mem_iterate.mpr ⟨k, hk, rfl⟩

/-- Entry k of SEQMEM after a run is the k-th successor of X0. -/
theorem getElem?_setSequence {s : State} {k : Nat} (hk : k < s.lehCount.toNat) :
    (s.setSequence s.lehmerRun).seqmem[k]? =
      some (BitVec.ofNat 64 ((lehNext s.lehA.toNat s.lehC.toNat s.lehM.toNat)^[k] s.lehX0.toNat)) := by
  rw [setSequence_seqmem, List.getElem?_map, State.lehmerRun, seq_lehRun (by omega), List.getElem?_iterate _ _ _ _ hk]
  rfl

/-- Settles O40. -/
theorem lehmerProducesTheSequence : Obligations.LehmerProducesTheSequence := by
  intro s hM hn hmax
  have hn0 : s.lehCount.toNat ≠ 0 := fun h => hn (BitVec.eq_of_toNat_eq h)
  have hpos : 0 < s.lehCount.toNat := Nat.pos_of_ne_zero hn0
  have hrun := lehmerRun_after hM hpos
  refine ⟨_, exec_lehGen_of_ok (checkLehmer_eq_ok.mpr ⟨hM, hn0, hmax⟩), ?state, ?length, ?first, fun k x hx hk => ?next⟩
  case state =>
    have hseqlen : BitVec.ofNat 32 s.lehmerRun.seq.length = s.lehCount := by
      rw [hrun.length, BitVec.ofNat_toNat, BitVec.setWidth_eq]
    have hprogress : BitVec.ofNat 7 s.lehmerRun.progress = 100 := by
      rw [hrun.progress, lehProgressAfter_self hpos]
      rfl
    simp only [State.complete, State.setSequence, hseqlen, hprogress]
  case length => rw [complete_seqmem, setSequence_seqmem, List.length_map, hrun.length]
  case first =>
    rw [complete_seqmem, getElem?_setSequence hpos]
    simp
  case next =>
    have hklt : k < s.lehCount.toNat := by omega
    rw [complete_seqmem, getElem?_setSequence hklt] at hx
    rw [complete_seqmem, getElem?_setSequence hk, Function.iterate_succ_apply', ← Option.some.inj hx,
      BitVec.toNat_ofNat, Nat.mod_eq_of_lt (lehmerRun_value_lt hM hklt)]
    rfl

end Sys2Proof.Machine
end

section
/-! PROOFS. The RC5 key schedule (rules R205 to R209): the mixing on naturals, and RC5_EXPAND: O50. -/

namespace Sys2Proof.Machine

/-! ### The mixing on naturals -/

@[simp] theorem length_packFrom {n : Nat} (u : Nat) (l : List (BitVec n)) (k : Nat) (bs : List Byte) :
    (packFrom u l k bs).length = l.length := by
  induction bs generalizing k with
  | nil => rfl
  | cons b bs ih => rw [packFrom, packByte, List.length_set, ih]

@[simp] theorem length_packKey {n : Nat} (u : Nat) (key : List Byte) :
    (packKey u key : List (BitVec n)).length = keyWords u key.length := by
  simp [packKey]

theorem bits_dvd_two_pow (w : Width) : w.bits ∣ 2 ^ w.bits := by cases w <;> decide

/-- A rotate takes its amount mod w, so an amount may be reduced mod 2^w first. -/
theorem rotlSpec_mod_two_pow (w : Width) (a n : Nat) : rotlSpec w.bits a (n % 2 ^ w.bits) = rotlSpec w.bits a n := by
  simp only [rotlSpec, Nat.mod_mod_of_dvd n (bits_dvd_two_pow w)]

theorem toNat_addW_addW {n : Nat} (a b c : BitVec n) :
    (addW (addW a b) c).toNat = (a.toNat + b.toNat + c.toNat) % 2 ^ n := by
  simp [addW, BitVec.toNat_add]

/-- The mixing equations on naturals, from a to b, with tables of t and c words (rule R207). -/
structure MixState.Mixes {w : Width} (t c : Nat) (a b : MixState w.bits) : Prop where
  x : b.x.toNat = rotlSpec w.bits (((a.s.getD a.i 0).toNat + a.x.toNat + a.y.toNat) % 2 ^ w.bits) 3
  y : b.y.toNat = rotlSpec w.bits (((a.l.getD a.j 0).toNat + b.x.toNat + a.y.toNat) % 2 ^ w.bits)
    (b.x.toNat + a.y.toNat)
  s : b.s = a.s.set a.i b.x
  l : b.l = a.l.set a.j b.y
  i : b.i = (a.i + 1) % t
  j : b.j = (a.j + 1) % c

/-- The equations on naturals determine the words: they are those of the model's step. -/
theorem MixState.Mixes.eq_mixStep {w : Width} {a b : MixState w.bits} (h : a.Mixes a.s.length a.l.length b) :
    b = mixStep a := by
  obtain ⟨hx, hy, hs, hl, hi, hj⟩ := h
  have hx' : rotlW (addW (addW (a.s.getD a.i 0) a.x) a.y) 3 = b.x := by
    apply BitVec.eq_of_toNat_eq
    rw [toNat_rotlW (bits_pos w), toNat_addW_addW, hx]
  have hy' : rotlW (addW (addW (a.l.getD a.j 0) b.x) a.y) (addW b.x a.y).toNat = b.y := by
    apply BitVec.eq_of_toNat_eq
    rw [toNat_rotlW (bits_pos w), toNat_addW_addW, hy, addW, BitVec.toNat_add, rotlSpec_mod_two_pow]
  simp only [mixStep, hx', hy', ← hs, ← hl, ← hi, ← hj]

/-- A sequence of states of which each is the mixing step of the one before is the mixing loop. -/
theorem mixLoop_eq_of_steps {n : Nat} (k : Nat) (m : Nat → MixState n) (h : ∀ j < k, m (j + 1) = mixStep (m j)) :
    mixLoop k (m 0) = m k := by
  induction k generalizing m with
  | zero => rfl
  | succ k ih =>
    rw [mixLoop, ← h 0 (Nat.succ_pos k)]
    exact ih (fun j => m (j + 1)) fun j hj => h (j + 1) (Nat.succ_lt_succ hj)

/-- The mixing equations keep the sizes of both tables. -/
theorem length_of_mixes {w : Width} {t c N : Nat} {m : Nat → MixState w.bits} (hs : (m 0).s.length = t)
    (hl : (m 0).l.length = c) (h : ∀ k < N, (m k).Mixes t c (m (k + 1))) {k : Nat} (hk : k ≤ N) :
    (m k).s.length = t ∧ (m k).l.length = c := by
  induction k with
  | zero => exact ⟨hs, hl⟩
  | succ k ih =>
    have hmix := h k hk
    simpa [hmix.s, hmix.l] using ih (Nat.le_of_succ_le hk)

/-- ExpandKey is what the mixing equations on naturals lead to from the initial tables (rules R207, R208). -/
theorem expandKey_eq_of_mixes {p : Params} {w : Width} {r t c N : Nat} {key : List Byte} {m : Nat → MixState w.bits}
    (ht : t = tableSize r) (hc : c = keyWords w.bytes key.length) (hN : N = 3 * max t c)
    (h0 : m 0 = ⟨initTable (p.rc5Q w) t (p.rc5P w), packKey w.bytes key, 0, 0, 0, 0⟩)
    (h : ∀ k < N, (m k).Mixes t c (m (k + 1))) : expandKey p w r key = (m N).s := by
  have hstep : ∀ k < N, m (k + 1) = mixStep (m k) := by
    intro k hk
    have hmix := h k hk
    obtain ⟨hs, hl⟩ := length_of_mixes (by simp [h0]) (by simp [h0, hc]) h hk.le
    rw [← hs, ← hl] at hmix
    exact hmix.eq_mixStep
  rw [← mixLoop_eq_of_steps N m hstep, h0, hN, ht, hc]
  rfl

/-! ### RC5_EXPAND -/

/-- RC5_EXPAND with its checks passed builds the table and completes (rule R209). -/
theorem exec_rc5Expand_of_ok {w : Width} {s : State} (h : checkExpand s = .ok w) :
    exec .rc5Expand s = .next (s.buildTable w).complete := by
  rw [exec, execRc5Expand, h]
  rfl

/-- Settles O50. -/
theorem expandBuildsTheTable : Obligations.ExpandBuildsTheTable := by
  refine ⟨fun w s hw hr hk hmax => ?expand, ?mixing, ?keyShorterThanTable, ?keyLongerThanTable⟩
  case expand =>
    have hk0 : s.keylen.toNat ≠ 0 := fun h => hk (BitVec.eq_of_toNat_eq h)
    refine ⟨_, exec_rc5Expand_of_ok (checkExpand_eq_ok.mpr ⟨hw, hr, hk0, hmax⟩), rfl, ?_⟩
    simp [State.buildTable, tableSize]
  case mixing =>
    intro p w r key m t c h0 hstep
    refine expandKey_eq_of_mixes rfl rfl rfl h0 fun k hk => ?_
    obtain ⟨hx, hy, hs, hl, hi, hj⟩ := hstep k hk
    exact ⟨hx, hy, hs, hl, hi, hj⟩
  case keyShorterThanTable => decide
  case keyLongerThanTable => decide

end Sys2Proof.Machine
end

section
/-! PROOFS. Which registers a command writes, with KVALID and PVALID (rules R40, R43, R122): O30. -/

namespace Sys2Proof.Machine

/-! ### The registers, and who writes them -/

/-- The registers of rule R43 other than STATUS, ERRINFO, ERRCMD and the lengths, with STATUS.KVALID and
STATUS.PVALID. -/
structure Registers where
  cmd : BitVec 32
  cfgWordsize : BitVec 8
  cfgRounds : BitVec 8
  cfgKlb : BitVec 16
  wr : WReg → WordReg
  lehA : BitVec 64
  lehC : BitVec 64
  lehM : BitVec 64
  lehX0 : BitVec 64
  lehCount : BitVec 32
  lehSeqlen : BitVec 32
  lehPeriod : BitVec 32
  lehFirstocc : BitVec 32
  lehProgress : BitVec 7
  md5Acc : Acc
  kvalid : Bool
  pvalid : Bool

def State.registers (s : State) : Registers :=
  ⟨s.cmd, s.cfgWordsize, s.cfgRounds, s.cfgKlb, s.wr, s.lehA, s.lehC, s.lehM, s.lehX0, s.lehCount, s.lehSeqlen,
    s.lehPeriod, s.lehFirstocc, s.lehProgress, s.md5Acc, s.kvalid, s.pvalid⟩

theorem registers_setBuf (s : State) (sp : Buf) (m : Memory) : (s.setBuf sp m).registers = s.registers := by
  cases sp <;> rfl

/-- The word register a command writes when it completes (rule R122). -/
def destination : Instr → Option WReg
  | .wLd ra _ _ | .wMov ra _ | .wAdd ra _ | .wSub ra _ | .wXor ra _ | .wAddb ra _ | .wRol ra _ | .wRor ra _
  | .wRolv ra _ | .wRorv ra _ => some ra
  | _ => none

/-- Does a command write the MD5 accumulators (rule R43). -/
def writesAccumulators : Instr → Bool
  | .md5Init | .md5Block _ _ | .md5Digest | .md5Hex => true
  | _ => false

/-- Does a command rebuild the key table in a state: its checks pass there (rule R40). -/
def rebuildsIn (s : State) : Instr → Bool
  | .rc5Expand => passes (checkExpand s)
  | .rc5Encode => passes (checkEncode s)
  | .rc5Decode => passes (checkDecode s)
  | _ => false

/-- Does a command generate a sequence in a state (rule R155). -/
def generatesIn (s : State) : Instr → Bool
  | .lehGen => passes (checkLehmer s)
  | _ => false

theorem passes_of_ok {α : Type} {x : Except Trap α} {a : α} (h : x = .ok a) : passes x = true := by
  rw [h]
  rfl

theorem passes_of_error {α : Type} {x : Except Trap α} {e : Trap} (h : x = .error e) : passes x = false := by
  rw [h]
  rfl

/-- What a command writes into the registers, in a state with exactly those writes. -/
inductive State.RegWrites (s : State) (i : Instr) : State → Prop
  | kept (hr : rebuildsIn s i = false) (hg : generatesIn s i = false) : s.RegWrites i s
  | word (r : WReg) (v : WordReg) (hi : destination i = some r) : s.RegWrites i (s.setWr r v)
  | accumulators (acc : Acc) (hi : writesAccumulators i = true) : s.RegWrites i { s with md5Acc := acc }
  | sequence (hg : generatesIn s i = true) : s.RegWrites i (s.setSequence s.lehmerRun)
  | table (hr : rebuildsIn s i = true) : s.RegWrites i { s with kvalid := true }

/-- The registers after a command are those after one of the writes. -/
def State.RegEnds (s : State) (i : Instr) (t : State) : Prop := ∃ u, s.RegWrites i u ∧ t.registers = u.registers

/-- A command that neither rebuilds the table nor generates ends with the writes of its success, or with none. -/
theorem finish_regEnds {i : Instr} {r : Except Trap State} {s t : State} (h : finish r s = .next t)
    (hr : rebuildsIn s i = false) (hg : generatesIn s i = false) (hok : ∀ u, r = .ok u → s.RegEnds i u) :
    s.RegEnds i t := by
  rcases finish_eq_next.mp h with ⟨u, hu, rfl⟩ | ⟨e, -, rfl⟩
  · exact hok u hu
  · exact ⟨s, .kept hr hg, rfl⟩

theorem lehGen_regEnds {s t : State} (h : exec .lehGen s = .next t) : s.RegEnds .lehGen t := by
  cases hc : checkLehmer s with
  | ok u =>
    rw [exec_lehGen_of_ok hc] at h
    cases h
    exact ⟨_, .sequence (passes_of_ok hc), rfl⟩
  | error e =>
    simp only [exec, execLehGen, hc] at h
    cases h
    exact ⟨s, .kept rfl (passes_of_error hc), rfl⟩

theorem rc5Expand_regEnds {s t : State} (h : exec .rc5Expand s = .next t) : s.RegEnds .rc5Expand t := by
  cases hc : checkExpand s with
  | ok w =>
    rw [exec_rc5Expand_of_ok hc] at h
    cases h
    exact ⟨_, .table (passes_of_ok hc), rfl⟩
  | error e =>
    simp only [exec, execRc5Expand, hc] at h
    cases h
    exact ⟨s, .kept (passes_of_error hc) rfl, rfl⟩

theorem rc5Encode_regEnds {s t : State} (h : exec .rc5Encode s = .next t) : s.RegEnds .rc5Encode t := by
  cases hc : checkEncode s with
  | ok w =>
    rw [exec_rc5Encode_of_ok hc] at h
    cases h
    exact ⟨_, .table (passes_of_ok hc), rfl⟩
  | error e =>
    simp only [exec, execRc5Encode, hc] at h
    cases h
    exact ⟨s, .kept (passes_of_error hc) rfl, rfl⟩

/-- RC5_DECODE has rebuilt the table before it looks at the padding (rules R238, R281). -/
theorem rc5Decode_regEnds {s t : State} (h : exec .rc5Decode s = .next t) : s.RegEnds .rc5Decode t := by
  simp only [exec, execRc5Decode] at h
  split at h
  · rename_i e hc
    cases h
    exact ⟨s, .kept (passes_of_error hc) rfl, rfl⟩
  · rename_i w hc
    split at h <;> cases h <;> exact ⟨_, .table (passes_of_ok hc), rfl⟩

/-- What every command does to the registers. -/
theorem exec_regEnds {i : Instr} {s t : State} (h : exec i s = .next t) : s.RegEnds i t := by
  cases i
  case sysNop | sysClear =>
    cases h
    exact ⟨s, .kept rfl rfl, rfl⟩
  case md5Init =>
    cases h
    exact ⟨_, .accumulators _ rfl, rfl⟩
  case lehGen => exact lehGen_regEnds h
  case rc5Expand => exact rc5Expand_regEnds h
  case rc5Encode => exact rc5Encode_regEnds h
  case rc5Decode => exact rc5Decode_regEnds h
  case wAdd | wSub | wXor | wRolv | wRorv =>
    refine finish_regEnds h rfl rfl fun u hu => ?_
    obtain ⟨w, a, b, -, -, -, rfl⟩ := wordBinary_eq_ok hu
    exact ⟨_, .word _ _ rfl, rfl⟩
  case wAddb | wRol | wRor =>
    refine finish_regEnds h rfl rfl fun u hu => ?_
    obtain ⟨w, a, -, -, rfl⟩ := wordUnary_eq_ok hu
    exact ⟨_, .word _ _ rfl, rfl⟩
  all_goals
    refine finish_regEnds h rfl rfl fun u hu => ?_
    simp only [bind_eq_ok, pure, Except.pure, Except.ok.injEq] at hu
  case wLd =>
    obtain ⟨w, -, -, -, -, -, rfl⟩ := hu
    exact ⟨_, .word _ _ rfl, rfl⟩
  case wMov =>
    obtain ⟨w, -, v, -, rfl⟩ := hu
    exact ⟨_, .word _ _ rfl, rfl⟩
  case wSt =>
    obtain ⟨w, -, -, -, v, -, -, -, rfl⟩ := hu
    exact ⟨s, .kept rfl rfl, registers_setBuf ..⟩
  case md5Block =>
    obtain ⟨-, -, -, -, rfl⟩ := hu
    exact ⟨_, .accumulators _ rfl, rfl⟩
  case md5Digest | md5Hex =>
    obtain ⟨-, -, rfl⟩ := hu
    exact ⟨_, .accumulators _ rfl, rfl⟩
  case rc5Encblk | rc5Decblk =>
    obtain ⟨w, -, rfl⟩ := hu
    exact ⟨s, .kept rfl rfl, registers_setBuf ..⟩

/-! ### What the writes leave -/

section Writes

variable {i : Instr} {s u : State}

theorem destination_eq_some {r : WReg} (h : destination i = some r) :
    (∃ sp off, i = .wLd r sp off) ∨
      ∃ rb n, i ∈ [Instr.wMov r rb, .wAdd r rb, .wSub r rb, .wXor r rb, .wAddb r n, .wRol r n, .wRor r n, .wRolv r rb,
        .wRorv r rb] := by
  have : Nonempty WReg := ⟨r⟩
  cases i <;> simp_all [destination]

theorem writesAccumulators_eq_true (h : writesAccumulators i = true) :
    i ∈ [Instr.md5Init, .md5Digest, .md5Hex] ∨ ∃ sp off, i = .md5Block sp off := by
  cases i <;> simp_all [writesAccumulators]

theorem generatesIn_eq_true (h : generatesIn s i = true) : i = .lehGen := by
  cases i <;> simp_all [generatesIn]

theorem rebuildsIn_eq_true (h : rebuildsIn s i = true) : i ∈ [Instr.rc5Expand, .rc5Encode, .rc5Decode] := by
  cases i <;> simp_all [rebuildsIn]

/-- A command that writes a word register or the accumulators neither rebuilds the table nor generates. -/
theorem not_rebuilds_generates_of_writes (h : (destination i).isSome = true ∨ writesAccumulators i = true) :
    rebuildsIn s i = false ∧ generatesIn s i = false := by
  cases i <;> simp_all [destination, writesAccumulators, rebuildsIn, generatesIn]

theorem State.RegWrites.wr_ne (h : s.RegWrites i u) {r : WReg} (hr : u.wr r ≠ s.wr r) : destination i = some r := by
  cases h with
  | word q v hi =>
    by_cases hq : r = q
    · rw [hi, hq]
    · exact absurd (setWr_wr_ne q v s r hq) hr
  | _ => exact absurd rfl hr

theorem State.RegWrites.md5Acc_ne (h : s.RegWrites i u) (ha : u.md5Acc ≠ s.md5Acc) : writesAccumulators i = true := by
  cases h with
  | accumulators acc hi => exact hi
  | word r v => exact absurd (setWr_md5Acc r v s) ha
  | _ => exact absurd rfl ha

/-- KVALID is set by a rebuilt table and cleared by no command (rule R40). -/
theorem State.RegWrites.kvalid_eq (h : s.RegWrites i u) : u.kvalid = (s.kvalid || rebuildsIn s i) := by
  cases h with
  | kept hr hg => simp [hr]
  | word r v hi => simp [not_rebuilds_generates_of_writes (s := s) (.inl (Option.isSome_of_eq_some hi))]
  | accumulators acc hi => simp [not_rebuilds_generates_of_writes (s := s) (.inr hi)]
  | sequence hg => simp [generatesIn_eq_true hg, rebuildsIn]
  | table hr => simp [hr]

/-- PVALID is what the run of LEH_GEN found, and stays under every other command (rules R40, R155). -/
theorem State.RegWrites.pvalid_eq (h : s.RegWrites i u) :
    u.pvalid = if generatesIn s i = true then s.lehmerRun.found.isSome else s.pvalid := by
  cases h with
  | kept hr hg => simp [hg]
  | word r v hi => simp [not_rebuilds_generates_of_writes (s := s) (.inl (Option.isSome_of_eq_some hi))]
  | accumulators acc hi => simp [not_rebuilds_generates_of_writes (s := s) (.inr hi)]
  | sequence hg => simp [hg]
  | table hr =>
    have hg : generatesIn s i ≠ true := fun hg => by simp [generatesIn_eq_true hg, rebuildsIn] at hr
    simp [hg]

end Writes

theorem exec_kvalid {i : Instr} {s t : State} (h : exec i s = .next t) : t.kvalid = (s.kvalid || rebuildsIn s i) := by
  obtain ⟨u, hu, hregs⟩ := exec_regEnds h
  exact (congrArg Registers.kvalid hregs).trans hu.kvalid_eq

theorem exec_pvalid {i : Instr} {s t : State} (h : exec i s = .next t) :
    t.pvalid = if generatesIn s i = true then s.lehmerRun.found.isSome else s.pvalid := by
  obtain ⟨u, hu, hregs⟩ := exec_regEnds h
  exact (congrArg Registers.pvalid hregs).trans hu.pvalid_eq

/-- Settles O30. -/
theorem commandsWriteOnlyTheirRegisters : Obligations.CommandsWriteOnlyTheirRegisters := by
  intro i s t h
  have hkvalid := exec_kvalid h
  obtain ⟨u, hu, hregs⟩ := exec_regEnds h
  simp only [State.registers, Registers.mk.injEq] at hregs
  obtain ⟨hcmd, hwordsize, hrounds, hklb, hwr, hA, hC, hM, hX0, hcount, hseqlen, hperiod, hfirstocc, hprogress, hacc,
    -, hpvalid⟩ := hregs
  refine ⟨?config, ?inputs, fun r hr => ?words, fun ha => ?accumulators, fun hi => ?results, fun hk => ?kept,
    fun hk ht => ?set, (exec_kept h).busy⟩
  case config =>
    rw [hcmd, hwordsize, hrounds, hklb]
    cases hu <;> simp
  case inputs =>
    rw [hA, hC, hM, hX0, hcount]
    cases hu <;> simp
  case words => exact destination_eq_some (hu.wr_ne (hwr ▸ hr))
  case accumulators => exact writesAccumulators_eq_true (hu.md5Acc_ne (hacc ▸ ha))
  case results =>
    rw [hseqlen, hperiod, hfirstocc, hprogress, hpvalid]
    cases hu with
    | sequence hg => exact absurd (generatesIn_eq_true hg) hi
    | word r v => simp
    | _ => rfl
  case kept => rw [hkvalid, hk, Bool.true_or]
  case set =>
    rw [hkvalid, hk, Bool.false_or] at ht
    exact rebuildsIn_eq_true ht

end Sys2Proof.Machine
end

section
/-! PROOFS. What a host read of STATUS shows (rules R40, R155, R263): O17. -/

namespace Sys2Proof.Machine

/-! ### A run of LEH_GEN keeps the repetition it has found -/

/-- A run with its progress left out: what does not depend on the number of elements asked for. -/
def LehRun.record (r : LehRun) : LehRun := { r with progress := 0 }

theorem lehIter_record {A C M n n' i : Nat} {r r' : LehRun} (h : r.record = r'.record) :
    (lehIter A C M n i r).record = (lehIter A C M n' i r').record := by
  obtain ⟨seq, cur, seen, found, progress⟩ := r
  obtain ⟨seq', cur', seen', found', progress'⟩ := r'
  cases h
  cases found with
  | some f => rfl
  | none => cases hl : seen.lookup (lehNext A C M cur) <;> simp [lehIter, LehRun.record, hl]

theorem lehLoop_record {A C M n n' : Nat} (m : Nat) {i : Nat} {r r' : LehRun} (h : r.record = r'.record) :
    (lehLoop A C M n m i r).record = (lehLoop A C M n' m i r').record := by
  induction m generalizing i r r' with
  | zero => exact h
  | succ m ih => exact ih (lehIter_record h)

/-- The loop's last iteration, taken apart from those before it. -/
theorem lehLoop_succ (A C M n m i : Nat) (r : LehRun) :
    lehLoop A C M n (m + 1) i r = lehIter A C M n (i + m) (lehLoop A C M n m i r) := by
  induction m generalizing i r with
  | zero => rfl
  | succ m ih =>
    rw [lehLoop, ih, lehLoop, Nat.add_assoc, Nat.add_comm 1 m]

/-- A run of one element more is one iteration more, but for the progress. -/
theorem lehRun_succ_record (A C M X0 n : Nat) :
    (lehRun A C M X0 (n + 2)).record = (lehIter A C M 0 (n + 1) (lehRun A C M X0 (n + 1))).record := by
  rw [lehRun, show n + 2 - 1 = n + 1 from rfl, lehLoop_succ, Nat.add_comm 1 n]
  exact lehIter_record (lehLoop_record n rfl)

theorem found_lehIter {A C M n i : Nat} {r : LehRun} (h : r.found.isSome = true) :
    (lehIter A C M n i r).found.isSome = true := by
  obtain ⟨f, hf⟩ := Option.isSome_iff_exists.mp h
  simp [lehIter, hf]

/-- The first element repeats nothing. -/
theorem found_lehRun_of_le_one {A C M X0 n : Nat} (hn : n ≤ 1) : (lehRun A C M X0 n).found = none := by
  rw [lehRun, Nat.sub_eq_zero_of_le hn]
  rfl

theorem found_lehRun_succ {A C M X0 n : Nat} (h : (lehRun A C M X0 n).found.isSome = true) :
    (lehRun A C M X0 (n + 1)).found.isSome = true := by
  cases n with
  | zero => simp [found_lehRun_of_le_one (Nat.zero_le 1)] at h
  | succ n =>
    have hfound := congrArg LehRun.found (lehRun_succ_record A C M X0 n)
    simp only [LehRun.record] at hfound
    rw [hfound]
    exact found_lehIter h

theorem found_lehRun_mono {A C M X0 m n : Nat} (hmn : m ≤ n) (h : (lehRun A C M X0 m).found.isSome = true) :
    (lehRun A C M X0 n).found.isSome = true := by
  induction n, hmn using Nat.le_induction with
  | base => exact h
  | succ n _ ih => exact found_lehRun_succ ih

/-! ### KVALID and PVALID at the points of a run -/

section Points

variable {s : State} {i : Instr}

theorem rebuildsTable_of_decode (h : decode s.cmd = .ok i) : rebuildsTable s = rebuildsIn s i := by
  cases i <;> simp [rebuildsTable, h, rebuildsIn]

theorem generates_of_decode (h : decode s.cmd = .ok i) : generates s = generatesIn s i := by
  cases i <;> simp [generates, h, generatesIn]

theorem kvalidAt_zero (s : State) : kvalidAt s 0 = s.kvalid := by simp [kvalidAt]

theorem kvalidAt_mono {j k : Nat} (hjk : j ≤ k) (h : kvalidAt s j = true) : kvalidAt s k = true := by
  simp only [kvalidAt, Bool.or_eq_true, Bool.and_eq_true, decide_eq_true_eq] at h ⊢
  exact h.imp_right fun ⟨hr, hj⟩ => ⟨hr, hj.trans hjk⟩

theorem pvalidAt_zero (s : State) : pvalidAt s 0 = s.pvalid := by simp [pvalidAt]

theorem pvalidAt_of_not_generates (h : generates s = false) (k : Nat) : pvalidAt s k = s.pvalid := by
  simp [pvalidAt, h]

/-- From point 1 on of a generation: whether the elements stored by then hold a repetition (rule R155). -/
theorem pvalidAt_of_generates (h : generates s = true) {k : Nat} (hk : 1 ≤ k) :
    pvalidAt s k =
      (lehRun s.lehA.toNat s.lehC.toNat s.lehM.toNat s.lehX0.toNat (k / 2)).found.isSome := by
  simp [pvalidAt, h, hk]

theorem pvalidAt_one (h : generates s = true) : pvalidAt s 1 = false := by
  rw [pvalidAt_of_generates h le_rfl, found_lehRun_of_le_one (by decide)]
  rfl

theorem pvalidAt_mono {j k : Nat} (hj : 1 ≤ j) (hjk : j ≤ k) (h : pvalidAt s j = true) : pvalidAt s k = true := by
  cases hg : generates s with
  | false => rwa [pvalidAt_of_not_generates hg] at h ⊢
  | true =>
    rw [pvalidAt_of_generates hg hj] at h
    rw [pvalidAt_of_generates hg (hj.trans hjk)]
    exact found_lehRun_mono (Nat.div_le_div_right hjk) h

/-- At its last point a run shows the KVALID the command leaves. -/
theorem kvalidAt_lastPoint (hd : decode s.cmd = .ok i) : kvalidAt s (lastPoint s) = (s.kvalid || rebuildsIn s i) := by
  rw [← rebuildsTable_of_decode hd]
  cases hr : rebuildsTable s <;> simp [kvalidAt, lastPoint, hr]

/-- At its last point a run shows the PVALID the command leaves. -/
theorem pvalidAt_lastPoint (hd : decode s.cmd = .ok i) :
    pvalidAt s (lastPoint s) = if generatesIn s i = true then s.lehmerRun.found.isSome else s.pvalid := by
  rw [← generates_of_decode hd]
  cases hg : generates s with
  | false => simp [pvalidAt_of_not_generates hg]
  | true =>
    have hlehGen : i = .lehGen := generatesIn_eq_true ((generates_of_decode hd).symm.trans hg)
    have hlast : lastPoint s = 2 * s.lehCount.toNat + 1 := by
      simp [lastPoint, hg, rebuildsTable_of_decode hd, hlehGen, rebuildsIn]
    rw [pvalidAt_of_generates hg (by omega), hlast, if_pos rfl, State.lehmerRun,
      show (2 * s.lehCount.toNat + 1) / 2 = s.lehCount.toNat by omega]

end Points

/-! ### The value returned -/

theorem hostRead_status_of_busy {s : State} (h : s.busy = true) :
    hostRead s 0x01 =
      { s with
        hostData := statusInFlight s (pointInFlight s 0), seen := pointInFlight s 0, draws := s.draws + 1 } := by
  simp [hostRead, h, readBusy]

/-- BUSY, DONE and ERR in the word of a STATUS read are those of the state, or 1, 0, 0 while BUSY = 1 (rule R263). -/
theorem hostRead_status_flags (s : State) :
    ((hostRead s 0x01).hostData.getLsbD 0, (hostRead s 0x01).hostData.getLsbD 1,
        (hostRead s 0x01).hostData.getLsbD 2) =
      if s.busy = true then (true, false, false) else (false, s.done, s.err) := by
  cases hbusy : s.busy with
  | true =>
    simp only [hostRead_status_of_busy hbusy, statusInFlight, getLsbD_statusWord]
    simp
  | false =>
    simp only [hostRead_of_idle hbusy, readReg, State.status, getLsbD_statusWord]
    simp [hbusy]

/-- While BUSY = 1 a STATUS read shows KVALID and PVALID as at the point it marks as seen (log 9). -/
theorem hostRead_status_valid {s : State} (h : s.busy = true) :
    (hostRead s 0x01).hostData.getLsbD 3 = kvalidAt s (hostRead s 0x01).seen ∧
      (hostRead s 0x01).hostData.getLsbD 4 = pvalidAt s (hostRead s 0x01).seen := by
  simp only [hostRead_status_of_busy h, statusInFlight, getLsbD_statusWord]
  simp

/-- Settles O17. -/
theorem statusCombinationsAreTheFour : Obligations.StatusCombinationsAreTheFour := by
  intro s hs t v
  obtain ⟨-, ⟨-, hdone, -⟩, -, hseen⟩ := inv_iff.mp hs
  refine ⟨?flags, fun hbusy => ?shown, ⟨kvalidAt_zero s, fun j k => kvalidAt_mono⟩,
    ⟨pvalidAt_zero s, pvalidAt_one, fun j k => pvalidAt_mono⟩, fun i u hd hu => ?last⟩
  case flags =>
    have hflags : (v.getLsbD 0, v.getLsbD 1, v.getLsbD 2) = _ := hostRead_status_flags s
    have hbusy0 : v.getLsbD 0 = _ := congrArg Prod.fst hflags
    rw [hflags, hbusy0]
    cases s.busy with
    | true => simp
    | false =>
      cases hd : s.done with
      | true => simp [hdone hd]
      | false => cases s.err <;> simp
  case shown =>
    have hseen0 : t.seen = pointInFlight s 0 := congrArg State.seen (hostRead_status_of_busy hbusy)
    obtain ⟨-, hlow, hhigh⟩ := pointInFlight_bounds (Nat.zero_le _) (hseen hbusy)
    exact ⟨hlow.trans_eq hseen0.symm, hseen0.trans_le hhigh, hostRead_status_valid hbusy⟩
  case last =>
    exact ⟨(kvalidAt_lastPoint hd).trans (exec_kvalid hu).symm, (pvalidAt_lastPoint hd).trans (exec_pvalid hu).symm⟩

end Sys2Proof.Machine
end

section
/-! PROOFS. A command whose first failing check stands anywhere in its chain (rules R279, R280): O25, O28. -/

namespace Sys2Proof.Machine

/-! ### A chain of checks, one check at a time -/

section Chain

variable {α : Type} {x : Except Trap α} {f : α → Except Trap State} {s : State}

/-- A check that passes hands its value to the rest of the command. -/
theorem finish_bind_of_ok {a : α} (h : x = .ok a) : finish (x >>= f) s = finish (f a) s := by
  rw [h, ok_bind]

/-- A check that fails ends the command with its error, whatever would have come after it (rule R280). -/
theorem finish_bind_of_error {e : Trap} (h : x = .error e) :
    finish (x >>= f) s = .next (s.failed e.err.code e.info) := by
  rw [h, error_bind, finish_error]
  rfl

end Chain

section Failures

variable {s : State} {sp : Buf}

theorem checkCapacity_of_gt (h : bufCap s.params sp < s.blen sp) :
    checkCapacity s sp = .error ⟨.length, lengthCause sp⟩ :=
  checkCapacity_eq_error.mpr ⟨h, rfl⟩

/-- The detail of BufferTooShort is the 16-bit offset zero extended (rule R70). -/
theorem checkBounds_of_gt {off : BitVec 16} {k : Nat} (h : s.blen sp < off.toNat + k) :
    checkBounds s sp off.toNat k = .error ⟨.bufferTooShort, off.setWidth 32⟩ :=
  checkBounds_eq_error.mpr ⟨h, by rw [BitVec.ofNat_toNat]⟩

theorem readWord_of_mistagged {w : Width} {r : WReg} (h : s.mistagged w r) :
    readWord w s r = .error ⟨.widthMismatch, BitVec.ofNat 32 r.number⟩ :=
  readWord_eq_error.mpr ⟨h, rfl⟩

/-- A register whose tag is w is read (rule R120). -/
theorem exists_readWord_of_not_mistagged {w : Width} {r : WReg} (h : ¬ s.mistagged w r) :
    ∃ v, readWord w s r = .ok v := by
  obtain ⟨x, hx⟩ := not_forall_not.mp h
  exact ⟨_, readWord_eq_ok.mpr ⟨x, hx, rfl⟩⟩

end Failures

/-- Settles O25: the checks of W_LD and W_ST are passed one by one up to the one that fails. -/
theorem loadsAndStoresCheckInOrder : Obligations.LoadsAndStoresCheckInOrder := by
  intro w s ra sp off hw cause
  have hwidth : checkWidth s = .ok w := checkWidth_eq_ok.mpr hw
  refine ⟨fun hlen => ?capacity, fun hcap htag => ?tag, fun hcap hlen => ?bounds⟩
  case capacity =>
    have hcause : cause = lengthCause sp := by cases sp <;> rfl
    have hcap := checkCapacity_of_gt hlen
    rw [hcause]
    exact ⟨(finish_bind_of_ok hwidth).trans (finish_bind_of_error hcap),
      (finish_bind_of_ok hwidth).trans (finish_bind_of_error hcap)⟩
  case tag =>
    have hcap : checkCapacity s sp = .ok () := checkCapacity_eq_ok.mpr hcap
    exact (finish_bind_of_ok hwidth).trans
      ((finish_bind_of_ok hcap).trans (finish_bind_of_error (readWord_of_mistagged htag)))
  case bounds =>
    have hcap : checkCapacity s sp = .ok () := checkCapacity_eq_ok.mpr hcap
    have hbounds := checkBounds_of_gt hlen
    refine ⟨(finish_bind_of_ok hwidth).trans ((finish_bind_of_ok hcap).trans (finish_bind_of_error hbounds)),
      fun htag => ?_⟩
    obtain ⟨v, hv⟩ := exists_readWord_of_not_mistagged htag
    exact (finish_bind_of_ok hwidth).trans
      ((finish_bind_of_ok hcap).trans ((finish_bind_of_ok hv).trans (finish_bind_of_error hbounds)))

/-- LEH_GEN ends with the error its check names (rule R151). -/
theorem exec_lehGen_of_error {s : State} {e : Trap} (h : checkLehmer s = .error e) :
    exec .lehGen s = .next (s.failed e.err.code e.info) :=
  finish_bind_of_error h

/-- Settles O28: LEH_GEN by the cases of its one check, the MD5 commands by their chains. -/
theorem lehmerAndMd5CheckInOrder : Obligations.LehmerAndMd5CheckInOrder := by
  intro s sp off cause
  refine ⟨fun hM => ?modulus, fun hM hcount => ?zero, fun hM hcount => ?large, fun hlen => ?input,
    fun hlen => ?capacity, fun hcap hlen => ?bounds⟩
  case modulus => exact exec_lehGen_of_error (checkLehmer_eq_error.mpr (.inl ⟨hM, rfl⟩))
  case zero => exact exec_lehGen_of_error (checkLehmer_eq_error.mpr (.inr (.inl ⟨hM, by rw [hcount]; rfl, rfl⟩)))
  case large => exact exec_lehGen_of_error (checkLehmer_eq_error.mpr (.inr (.inr ⟨hM, hcount, rfl⟩)))
  case input =>
    have hcap := checkCapacity_of_gt (sp := .inmem) hlen
    exact ⟨finish_bind_of_error hcap, finish_bind_of_error hcap⟩
  case capacity =>
    have hcause : cause = lengthCause sp := by cases sp <;> rfl
    rw [hcause]
    exact finish_bind_of_error (checkCapacity_of_gt hlen)
  case bounds =>
    have hcap : checkCapacity s sp = .ok () := checkCapacity_eq_ok.mpr hcap
    exact (finish_bind_of_ok hcap).trans (finish_bind_of_error (checkBounds_of_gt hlen))

end Sys2Proof.Machine
end

section
/-! PROOFS. The little-endian words of the byte spaces (rules R12, R65, R71): O38, O39, O52. -/

namespace Sys2Proof.Machine

/-! ### Byte k of a number -/

theorem byteOf_cons_zero (b : Byte) (n : Nat) : byteOf (b.toNat + 256 * n) 0 = b := by
  apply BitVec.eq_of_toNat_eq
  have hb : b.toNat < 256 := b.isLt
  rw [byteOf, BitVec.toNat_ofNat, Nat.mul_zero, Nat.pow_zero, Nat.div_one]
  omega

theorem byteOf_cons_succ (b : Byte) (n k : Nat) : byteOf (b.toNat + 256 * n) (k + 1) = byteOf n k := by
  have hb : b.toNat < 256 := b.isLt
  have hdiv : (b.toNat + 256 * n) / 256 = n := by omega
  rw [byteOf, byteOf, Nat.mul_add, Nat.add_comm (8 * k), Nat.pow_add, ← Nat.div_div_eq_div_mul]
  exact congrArg (fun m => BitVec.ofNat 8 (m / 2 ^ (8 * k))) hdiv

/-- Byte k of FromLE is byte k of the string (rules R12, R65). -/
theorem getElem?_eq_byteOf_fromLE {bs : List Byte} {k : Nat} (h : k < bs.length) :
    bs[k]? = some (byteOf (fromLE bs) k) := by
  induction bs generalizing k with
  | nil => exact absurd h (Nat.not_lt_zero k)
  | cons b bs ih =>
    cases k with
    | zero => rw [fromLE, byteOf_cons_zero, List.getElem?_cons_zero]
    | succ k => rw [fromLE, byteOf_cons_succ, List.getElem?_cons_succ, ih (Nat.lt_of_succ_lt_succ h)]

/-- Byte k of LE_n(v) is byte k of v (rules R12, R65). -/
theorem getElem?_toLE_eq_byteOf {n k : Nat} (v : Nat) (h : k < n) : (toLE n v)[k]? = some (byteOf v k) := by
  rw [getElem?_toLE n v k h, byteOf, Nat.pow_mul]

theorem getElem?_wordBytes {w : Width} {k : Nat} (v : Word w) (h : k < w.bytes) :
    (wordBytes w v)[k]? = some (byteOf v.toNat k) :=
  getElem?_toLE_eq_byteOf v.toNat h

/-- The u bytes of a word fit its w bits, so the word is their number. -/
theorem toNat_wordOfBytes {w : Width} {bs : List Byte} (h : bs.length = w.bytes) :
    (wordOfBytes w bs).toNat = fromLE bs := by
  have hlt : fromLE bs < 2 ^ w.bits := by
    have hbits : 256 ^ w.bytes = 2 ^ w.bits := by cases w <;> rfl
    rw [← hbits, ← h]
    exact fromLE_lt bs
  rw [wordOfBytes, BitVec.toNat_ofNat, Nat.mod_eq_of_lt hlt]

/-- Byte k of a word of memory is the byte at its offset (rule R65). -/
theorem byteOf_wordAt {w : Width} {k : Nat} (s : State) (sp : Buf) (a : Nat) (h : k < w.bytes) :
    byteOf (s.wordAt w sp a).toNat k = s.byteAt sp (a + k) := by
  have hlen : (s.bytesAt sp a w.bytes).length = w.bytes := length_bytesAt ..
  rw [State.wordAt, toNat_wordOfBytes hlen]
  exact Option.some.inj
    ((getElem?_eq_byteOf_fromLE (by rwa [hlen])).symm.trans (getElem?_bytesAt s sp a w.bytes k h))

/-! ### A run of bytes written by a command that completes -/

/-- A command that completes with bytes written into one space changes that space, BUSY and DONE. -/
theorem complete_writeBytes_eq (s : State) (sp : Buf) (a : Nat) (bs : List Byte) :
    (s.writeBytes sp a bs).complete =
      { s.setBuf sp ((s.writeBytes sp a bs).complete.buf sp) with busy := false, done := true } := by
  rw [complete_buf, State.writeBytes, setBuf_buf_self]
  rfl

theorem memGet_writeBytes (s : State) (sp : Buf) (a : Nat) (bs : List Byte) (x : Nat) :
    memGet ((s.writeBytes sp a bs).complete.buf sp) x =
      if a ≤ x ∧ x < a + bs.length then bs[x - a]? else memGet (s.buf sp) x := by
  rw [complete_buf, State.writeBytes, setBuf_buf_self, memGet_memSetBytes]

/-! ### The commands with their checks passed -/

section Completed

variable {w : Width} {s : State} {sp : Buf} {off : BitVec 16}

theorem exec_wLd_of_ok (ra : WReg) (hw : s.configured w) (hcap : s.blen sp ≤ bufCap s.params sp)
    (hfit : off.toNat + w.bytes ≤ s.blen sp) :
    exec (.wLd ra sp off) s = .next (s.setWord w ra (s.wordAt w sp off.toNat)).complete :=
  (finish_bind_of_ok (checkWidth_eq_ok.mpr hw)).trans
    ((finish_bind_of_ok (checkCapacity_eq_ok (u := ()).mpr hcap)).trans
      (finish_bind_of_ok (checkBounds_eq_ok (u := ()).mpr hfit)))

theorem exec_wSt_of_ok {ra : WReg} {v : Word w} (hw : s.configured w) (hv : s.holds w ra v)
    (hcap : s.blen sp ≤ bufCap s.params sp) (hfit : off.toNat + w.bytes ≤ s.blen sp) :
    exec (.wSt ra sp off) s = .next (s.writeBytes sp off.toNat (wordBytes w v)).complete :=
  (finish_bind_of_ok (checkWidth_eq_ok.mpr hw)).trans
    ((finish_bind_of_ok (checkCapacity_eq_ok (u := ()).mpr hcap)).trans
      ((finish_bind_of_ok (readWord_of_holds hv)).trans
        (finish_bind_of_ok (checkBounds_eq_ok (u := ()).mpr hfit))))

theorem exec_rc5Encblk_of_ok (h : checkBlock s sp off.toNat = .ok w) :
    exec (.rc5Encblk sp off) s =
      .next (s.blockInPlace w (encBlock (s.tableWords w) s.cfgRounds.toNat) sp off.toNat).complete :=
  finish_bind_of_ok h

theorem exec_rc5Decblk_of_ok (h : checkBlock s sp off.toNat = .ok w) :
    exec (.rc5Decblk sp off) s =
      .next (s.blockInPlace w (decBlock (s.tableWords w) s.cfgRounds.toNat) sp off.toNat).complete :=
  finish_bind_of_ok h

end Completed

/-- Settles O38. -/
theorem loadReadsLittleEndian : Obligations.LoadReadsLittleEndian :=
  fun _ s ra sp off hw hcap hfit =>
    ⟨_, exec_wLd_of_ok ra hw hcap hfit, fun _ hk => byteOf_wordAt s sp off.toNat hk⟩

/-- Settles O39. -/
theorem storeWritesLittleEndian : Obligations.StoreWritesLittleEndian := by
  intro w s ra sp off v hw hv hcap hfit
  refine ⟨_, exec_wSt_of_ok hw hv hcap hfit, complete_writeBytes_eq .., fun a => ?_⟩
  rw [memGet_writeBytes, length_wordBytes]
  split
  · exact getElem?_wordBytes v (by omega)
  · rfl

/-- What a byte space reads as after a block written at `a`: the bytes of the first word, those of the second from
`a + u` on, and everywhere else as before (rules R65, R71). -/
theorem memGet_writeBytes_block {w : Width} (s : State) (sp : Buf) (a : Nat) (p : Word w × Word w) (x : Nat) :
    memGet ((s.writeBytes sp a (wordBytes w p.1 ++ wordBytes w p.2)).complete.buf sp) x =
      if a ≤ x ∧ x < a + w.bytes then some (byteOf p.1.toNat (x - a))
      else if a + w.bytes ≤ x ∧ x < a + 2 * w.bytes then some (byteOf p.2.toNat (x - (a + w.bytes)))
      else memGet (s.buf sp) x := by
  rw [memGet_writeBytes, List.length_append, length_wordBytes, length_wordBytes]
  by_cases hfirst : a ≤ x ∧ x < a + w.bytes
  · rw [if_pos (by omega), if_pos hfirst, List.getElem?_append_left (by rw [length_wordBytes]; omega),
      getElem?_wordBytes p.1 (by omega)]
  · rw [if_neg hfirst]
    by_cases hsecond : a + w.bytes ≤ x ∧ x < a + 2 * w.bytes
    · rw [if_pos (by omega), if_pos hsecond, List.getElem?_append_right (by rw [length_wordBytes]; omega),
        length_wordBytes, Nat.sub_sub, getElem?_wordBytes p.2 (by omega)]
    · rw [if_neg (by omega), if_neg hsecond]

/-- Settles O52: each command is its block function in place. -/
theorem blockCommandsWorkInPlace : Obligations.BlockCommandsWorkInPlace := by
  intro w s sp off hw hr hcap hk hfit block q hq
  have hcheck : checkBlock s sp off.toNat = .ok w := checkBlock_eq_ok.mpr ⟨hw, hr, hcap, hk, hfit⟩
  have hblock (p : Word w × Word w) := memGet_writeBytes_block s sp off.toNat p
  simp only [List.mem_cons, List.not_mem_nil, or_false] at hq
  rcases hq with rfl | rfl
  · exact ⟨_, exec_rc5Encblk_of_ok hcheck, complete_writeBytes_eq .., hblock _⟩
  · exact ⟨_, exec_rc5Decblk_of_ok hcheck, complete_writeBytes_eq .., hblock _⟩

end Sys2Proof.Machine
end

section
/-! PROOFS. The digest of the input and its hex characters (rules R170, R180, R181, R182): O45, O46. -/

namespace Sys2Proof.Machine

/-! ### The digest and its bytes -/

/-- Compressing k blocks is the fold of Compress over the first k blocks of 64 bytes (rule R180). -/
theorem md5Blocks_eq_foldl (p : Params) (k : Nat) (acc : Acc) (bs : List Byte) :
    md5Blocks p k acc bs =
      (List.range k).foldl (fun a j => md5Compress p a ((bs.drop (64 * j)).take 64)) acc := by
  induction k generalizing acc bs with
  | zero => rfl
  | succ k ih =>
    rw [md5Blocks, ih, List.range_succ_eq_map, List.foldl_cons, List.foldl_map]
    simp only [List.drop_drop, Nat.mul_zero, List.drop_zero, Nat.mul_succ, Nat.add_comm 64]

/-- Numbers serialised one after another, n bytes each: byte j of number q. -/
theorem getElem?_flatMap_toLE {n j : Nat} (vs : List (BitVec 32)) (q : Nat) (hj : j < n) :
    (vs.flatMap fun v => toLE n v.toNat)[n * q + j]? = vs[q]?.map fun v => byteOf v.toNat j := by
  induction vs generalizing q with
  | nil => rfl
  | cons v vs ih =>
    rw [List.flatMap_cons]
    cases q with
    | zero =>
      rw [Nat.mul_zero, Nat.zero_add, List.getElem?_append_left (by rwa [length_toLE]), getElem?_toLE_eq_byteOf _ hj]
      rfl
    | succ q =>
      rw [Nat.mul_succ, Nat.add_right_comm, List.getElem?_append_right (by rw [length_toLE]; omega), length_toLE,
        Nat.add_sub_cancel, ih q, List.getElem?_cons_succ]

theorem accBytes_eq_flatMap (r : Acc) : accBytes r = [r.a, r.b, r.c, r.d].flatMap fun v => toLE 4 v.toNat := by
  simp [accBytes]

/-- Byte a of the digest is byte a mod 4 of accumulator a / 4 (rule R180). -/
theorem getElem?_accBytes (r : Acc) {a : Nat} (h : a < 16) :
    (accBytes r)[a]? = some (byteOf ([r.a, r.b, r.c, r.d].getD (a / 4) 0).toNat (a % 4)) := by
  have hq : a / 4 < [r.a, r.b, r.c, r.d].length := Nat.div_lt_of_lt_mul h
  have hbyte := getElem?_flatMap_toLE [r.a, r.b, r.c, r.d] (a / 4) (Nat.mod_lt a (by decide : 0 < 4))
  rwa [Nat.div_add_mod, ← accBytes_eq_flatMap, List.getElem?_eq_getElem hq, Option.map_some,
    List.getElem_eq_getD 0] at hbyte

/-- Two characters for each byte, the upper four bits first (rule R182). -/
theorem getElem?_hexOf_even (bs : List Byte) (k : Nat) :
    (hexOf bs)[2 * k]? = bs[k]?.map fun b => hexDigit (b.toNat / 16) := by
  induction bs generalizing k with
  | nil => rfl
  | cons b bs ih =>
    cases k with
    | zero => rfl
    | succ k => simpa [hexOf, Nat.mul_succ] using ih k

theorem getElem?_hexOf_odd (bs : List Byte) (k : Nat) :
    (hexOf bs)[2 * k + 1]? = bs[k]?.map fun b => hexDigit (b.toNat % 16) := by
  induction bs generalizing k with
  | nil => rfl
  | cons b bs ih =>
    cases k with
    | zero => rfl
    | succ k => simpa [hexOf, Nat.mul_succ] using ih k

/-- The character of rule R182 with the subtraction taken last. -/
theorem hexDigit_eq (v : Nat) :
    hexDigit v = if v < 10 then BitVec.ofNat 8 (0x30 + v) else BitVec.ofNat 8 (0x61 + v - 10) := by
  unfold hexDigit
  split
  · rfl
  · rw [Nat.add_sub_assoc (by omega)]

/-! ### The commands with INLEN within the capacity -/

section Completed

variable {s : State} (h : s.inlen.toNat ≤ s.params.bufMax)

include h

theorem checkCapacity_inmem : checkCapacity s .inmem = .ok () :=
  checkCapacity_eq_ok.mpr h

theorem exec_md5Digest_of_le :
    exec .md5Digest s =
      .next ({ s with md5Acc := md5DigestAcc s.params s.input }.setOutput
        (accBytes (md5DigestAcc s.params s.input))).complete :=
  finish_bind_of_ok (checkCapacity_inmem h)

theorem exec_md5Hex_of_le :
    exec .md5Hex s =
      .next ({ s with md5Acc := md5DigestAcc s.params s.input }.setOutput
        (hexOf (accBytes (md5DigestAcc s.params s.input)))).complete :=
  finish_bind_of_ok (checkCapacity_inmem h)

end Completed

/-- The output of a whole-buffer command is what OUTMEM lists (rule R64). -/
theorem memGet_setOutput (s : State) (bs : List Byte) (a : Nat) :
    memGet (s.setOutput bs).complete.outmem a = bs[a]? := by
  rw [complete_outmem, setOutput_outmem, memGet_memOfBytes, if_pos (Nat.zero_le a), Nat.sub_zero]

/-- Settles O45. -/
theorem md5DigestWritesTheDigest : Obligations.Md5DigestWritesTheDigest := by
  refine ⟨fun s h => ?digest, by decide +kernel⟩
  intro p acc
  have hacc : md5DigestAcc s.params s.input = acc := md5Blocks_eq_foldl ..
  have hexec := exec_md5Digest_of_le h
  rw [hacc] at hexec
  refine ⟨_, hexec, ?state, fun a => ?bytes⟩
  case state =>
    simp only [State.setOutput, State.complete, length_accBytes]
    rfl
  case bytes =>
    rw [memGet_setOutput]
    split
    next ha => exact getElem?_accBytes acc ha
    next ha => exact List.getElem?_eq_none (by rw [length_accBytes]; omega)

/-- Settles O46. -/
theorem md5HexWritesTheCharacters : Obligations.Md5HexWritesTheCharacters := by
  intro s h
  refine ⟨fun u hu => ?digest, ?hex⟩
  case digest =>
    rw [exec_md5Digest_of_le h] at hu
    cases hu
    rfl
  case hex =>
    intro acc digit
    have hdigit (v : Nat) : hexDigit v = digit v := hexDigit_eq v
    refine ⟨_, exec_md5Hex_of_le h, ?state, fun k hk => ⟨?upper, ?lower⟩, fun a ha => ?rest⟩
    case state =>
      simp only [State.setOutput, State.complete, length_hexOf, length_accBytes]
      rfl
    case upper => rw [memGet_setOutput, getElem?_hexOf_even, getElem?_accBytes _ hk, Option.map_some, hdigit]
    case lower => rw [memGet_setOutput, getElem?_hexOf_odd, getElem?_accBytes _ hk, Option.map_some, hdigit]
    case rest =>
      rw [memGet_setOutput]
      exact List.getElem?_eq_none (by rw [length_hexOf, length_accBytes]; exact ha)

end Sys2Proof.Machine
end

section
/-! PROOFS. The recovered buffer of RC5_DECODE and its padding byte (rules R238, R240): O58. -/

namespace Sys2Proof.Machine

/-! ### The length of the recovered buffer -/

/-- The blocks of a string that is long enough have bb bytes each. -/
theorem length_of_mem_blocksOf {bb m : Nat} {x c : List Byte} (hx : m * bb ≤ x.length) (hc : c ∈ blocksOf bb m x) :
    c.length = bb := by
  induction m generalizing x with
  | zero => cases hc
  | succ m ih =>
    rw [Nat.succ_mul] at hx
    rcases List.mem_cons.mp hc with rfl | hc
    · exact List.length_take_of_le (by omega)
    · exact ih (by rw [List.length_drop]; omega) hc

/-- On whole blocks the decode chain has one block of output for each block of input. -/
theorem length_chainDec {dec : List Byte → List Byte} {bb : Nat} (hdec : ∀ x, (dec x).length = bb)
    {prev : List Byte} {cs : List (List Byte)} (hprev : prev.length = bb) (hcs : ∀ c ∈ cs, c.length = bb) :
    (chainDec dec prev cs).length = bb * cs.length := by
  induction cs generalizing prev with
  | nil => rfl
  | cons c cs ih =>
    obtain ⟨hc, hcs⟩ := List.forall_mem_cons.mp hcs
    rw [chainDec, List.length_append, ih hc hcs, xorBytes, List.length_zipWith, hdec, hprev, Nat.min_self,
      List.length_cons, Nat.mul_succ, Nat.add_comm]

/-- The recovered buffer has one block less than the ciphertext (rules R238, R240). -/
theorem length_recovered {w : Width} {s : State} (hmod : s.inlen.toNat % w.blockBytes = 0) :
    (s.recovered w).length = s.inlen.toNat - w.blockBytes := by
  have hdec := length_decBytes w (expandKey s.params w s.cfgRounds.toNat s.keyBytes) s.cfgRounds.toNat
  have hwhole : w.blockBytes * (s.inlen.toNat / w.blockBytes - 1) = s.inlen.toNat - w.blockBytes := by
    rw [Nat.mul_sub_one, Nat.mul_div_cancel' (Nat.dvd_of_mod_eq_zero hmod)]
  rw [State.recovered, decodeMsg, length_chainDec hdec (hdec _) fun c => length_of_mem_blocksOf ?rest, length_blocksOf,
    length_input, hwhole]
  case rest => rw [List.length_drop, length_input, Nat.mul_comm, hwhole]

/-! ### The padding byte -/

theorem stripPadding_of_gt {r : List Byte} {p : Byte} (hp : r.getLast? = some p) (h : r.length < p.toNat) :
    stripPadding r = .error ⟨.invalidPadding, p.setWidth 32⟩ := by
  simp [stripPadding, hp, h]

/-- Any last byte up to the length is accepted, 0 included (rule R240). -/
theorem stripPadding_of_le {r : List Byte} {p : Byte} (hp : r.getLast? = some p) (h : p.toNat ≤ r.length) :
    stripPadding r = .ok (r.take (r.length - p.toNat)) := by
  simp [stripPadding, hp, Nat.not_lt.mpr h]

/-! ### RC5_DECODE with its checks passed -/

section Completed

variable {w : Width} {s : State} (h : checkDecode s = .ok w)

include h

theorem exec_rc5Decode_of_strip_ok {out : List Byte} (hout : stripPadding (s.recovered w) = .ok out) :
    exec .rc5Decode s = .next ((s.buildTable w).setOutput out).complete := by
  rw [State.recovered] at hout
  simp only [exec, execRc5Decode, h, hout]

/-- On InvalidPadding the table has been rebuilt and the output is empty (rule R281). -/
theorem exec_rc5Decode_of_strip_error {e : Trap} (he : stripPadding (s.recovered w) = .error e) :
    exec .rc5Decode s = .next (((s.buildTable w).setOutput []).errorEntry e) := by
  rw [State.recovered] at he
  simp only [exec, execRc5Decode, h, he]

end Completed

/-- Settles O58: the outcome is that of `stripPadding` on the recovered buffer. -/
theorem decodeChecksThePaddingByte : Obligations.DecodeChecksThePaddingByte := by
  intro w s hw hr hk hkmax hin hblock hmod R rebuilt
  have hk0 : s.keylen.toNat ≠ 0 := fun h => hk (BitVec.eq_of_toNat_eq h)
  have hcheck : checkDecode s = .ok w := checkDecode_eq_ok.mpr ⟨hw, hr, hk0, hkmax, hin, hblock, hmod⟩
  refine ⟨length_recovered hmod, fun hR => ?empty, fun p hp hlen => ?tooLong, fun p hp hlen => ?stripped⟩
  case empty =>
    have hstrip : stripPadding R = .error ⟨.invalidPadding, 0x100⟩ := by
      rw [hR]
      rfl
    exact exec_rc5Decode_of_strip_error hcheck hstrip
  case tooLong => exact exec_rc5Decode_of_strip_error hcheck (stripPadding_of_gt hp hlen)
  case stripped =>
    have hstrip : stripPadding R = .ok (R.take (R.length - p.toNat)) := stripPadding_of_le hp hlen
    refine ⟨_, exec_rc5Decode_of_strip_ok hcheck hstrip, ?state, fun a => ?bytes⟩
    case state =>
      have hlength : (R.take (R.length - p.toNat)).length = R.length - p.toNat :=
        List.length_take_of_le (Nat.sub_le _ _)
      simp only [State.setOutput, State.complete, hlength]
      rfl
    case bytes => rw [memGet_setOutput, List.getElem?_take]

end Sys2Proof.Machine
end

section
/-! PROOFS. Which command writes which space (rules R63, R64): O29. -/

namespace Sys2Proof.Machine

/-! ### The write columns of the space matrix -/

/-- The commands whose output is OUTMEM and OUTLEN (rule R64). -/
def writesOutput : Instr → Bool
  | .md5Digest | .md5Hex | .rc5Encode | .rc5Decode => true
  | _ => false

/-- Does a command write a byte space (rule R63). -/
def writesBuf (i : Instr) (sp : Buf) : Bool :=
  match i with
  | .wSt _ sq _ | .rc5Encblk sq _ | .rc5Decblk sq _ => sq = sp
  | _ => sp = .outmem && writesOutput i

/-- An output goes to OUTMEM (rule R64). -/
theorem writesBuf_outmem {i : Instr} (h : writesOutput i = true) : writesBuf i .outmem = true := by
  cases i <;> simp_all [writesBuf, writesOutput]

/-- Does a command write STAB (rule R63). -/
def writesTable : Instr → Bool
  | .rc5Expand | .rc5Encode | .rc5Decode => true
  | _ => false

/-- Does a command write SEQMEM (rule R63). -/
def writesSequence : Instr → Bool
  | .lehGen => true
  | _ => false

/-- From s to t only what the matrix names for a command is written (rules R63, R64). -/
structure State.KeepsSpaces (s : State) (i : Instr) (t : State) : Prop where
  buf : ∀ sp, writesBuf i sp = false → t.buf sp = s.buf sp
  stab : writesTable i = false → t.stab = s.stab
  seqmem : writesSequence i = false → t.seqmem = s.seqmem
  outlen : writesOutput i = false → t.outlen = s.outlen
  keylen : t.keylen = s.keylen
  inlen : t.inlen = s.inlen

section Keeps

variable {s t u : State} {i : Instr}

/-- A write that touches neither a space nor a length register. -/
theorem keepsSpaces_of_eq (hbuf : t.buf = s.buf) (hstab : t.stab = s.stab) (hseqmem : t.seqmem = s.seqmem)
    (houtlen : t.outlen = s.outlen) (hkeylen : t.keylen = s.keylen) (hinlen : t.inlen = s.inlen) : s.KeepsSpaces i t :=
  ⟨fun sp _ => congrFun hbuf sp, fun _ => hstab, fun _ => hseqmem, fun _ => houtlen, hkeylen, hinlen⟩

theorem State.KeepsSpaces.refl (s : State) : s.KeepsSpaces i s := keepsSpaces_of_eq rfl rfl rfl rfl rfl rfl

theorem keepsSpaces_md5Acc (acc : Acc) : s.KeepsSpaces i { s with md5Acc := acc } :=
  keepsSpaces_of_eq rfl rfl rfl rfl rfl rfl

theorem State.KeepsSpaces.trans (h : s.KeepsSpaces i t) (h' : t.KeepsSpaces i u) : s.KeepsSpaces i u where
  buf sp hsp := (h'.buf sp hsp).trans (h.buf sp hsp)
  stab hi := (h'.stab hi).trans (h.stab hi)
  seqmem hi := (h'.seqmem hi).trans (h.seqmem hi)
  outlen hi := (h'.outlen hi).trans (h.outlen hi)
  keylen := h'.keylen.trans h.keylen
  inlen := h'.inlen.trans h.inlen

theorem keepsSpaces_complete (h : s.KeepsSpaces i u) : s.KeepsSpaces i u.complete :=
  h.trans (keepsSpaces_of_eq rfl rfl rfl rfl rfl rfl)

theorem keepsSpaces_errorEntry (h : s.KeepsSpaces i u) (e : Trap) : s.KeepsSpaces i (u.errorEntry e) :=
  h.trans (keepsSpaces_of_eq rfl rfl rfl rfl rfl rfl)

theorem keepsSpaces_finish {r : Except Trap State} (h : finish r s = .next t)
    (hr : ∀ u, r = .ok u → s.KeepsSpaces i u) : s.KeepsSpaces i t := by
  rcases finish_eq_next.mp h with ⟨u, hu, rfl⟩ | ⟨e, -, rfl⟩
  · exact keepsSpaces_complete (hr u hu)
  · exact keepsSpaces_errorEntry (.refl s) e

theorem keepsSpaces_setWr (r : WReg) (v : WordReg) : s.KeepsSpaces i (s.setWr r v) :=
  keepsSpaces_of_eq (funext fun sp => setWr_buf s r v sp) (setWr_stab ..) (setWr_seqmem ..) (setWr_outlen ..)
    (setWr_keylen ..) (setWr_inlen ..)

theorem keepsSpaces_setBuf {sp : Buf} (m : Memory) (h : writesBuf i sp = true) : s.KeepsSpaces i (s.setBuf sp m) where
  buf sq hsq := setBuf_buf_ne sp m s sq fun heq => by rw [heq, h] at hsq; cases hsq
  stab _ := setBuf_stab ..
  seqmem _ := setBuf_seqmem ..
  outlen _ := setBuf_outlen ..
  keylen := setBuf_keylen ..
  inlen := setBuf_inlen ..

theorem keepsSpaces_setSequence (r : LehRun) (h : writesSequence i = true) : s.KeepsSpaces i (s.setSequence r) where
  buf sp _ := by cases sp <;> rfl
  stab _ := rfl
  seqmem hi := by rw [h] at hi; cases hi
  outlen _ := rfl
  keylen := rfl
  inlen := rfl

theorem keepsSpaces_buildTable (w : Width) (h : writesTable i = true) : s.KeepsSpaces i (s.buildTable w) where
  buf sp _ := by cases sp <;> rfl
  stab hi := by rw [h] at hi; cases hi
  seqmem _ := rfl
  outlen _ := rfl
  keylen := rfl
  inlen := rfl

/-- The output of a whole-buffer command is in OUTMEM and OUTLEN only (rule R64). -/
theorem keepsSpaces_setOutput (bs : List Byte) (h : writesOutput i = true) : s.KeepsSpaces i (s.setOutput bs) where
  buf sp hsp := by
    cases sp with
    | keymem | inmem => rfl
    | outmem => rw [writesBuf_outmem h] at hsp; cases hsp
  stab _ := rfl
  seqmem _ := rfl
  outlen hi := by rw [h] at hi; cases hi
  keylen := rfl
  inlen := rfl

end Keeps

/-! ### Every command -/

/-- RC5_DECODE writes the table and an output, whether the padding is accepted or not (rules R238, R281). -/
theorem rc5Decode_keepsSpaces {s t : State} (h : exec .rc5Decode s = .next t) : s.KeepsSpaces .rc5Decode t := by
  have hwrites (w : Width) (bs : List Byte) : s.KeepsSpaces .rc5Decode ((s.buildTable w).setOutput bs) :=
    (keepsSpaces_buildTable w rfl).trans (keepsSpaces_setOutput bs rfl)
  simp only [exec, execRc5Decode] at h
  split at h
  · cases h
    exact keepsSpaces_errorEntry (.refl s) _
  · split at h <;> cases h
    · exact keepsSpaces_complete (hwrites ..)
    · exact keepsSpaces_errorEntry (hwrites ..) _

/-- Every command keeps the spaces that the matrix does not name for it. -/
theorem exec_keepsSpaces {i : Instr} {s t : State} (h : exec i s = .next t) : s.KeepsSpaces i t := by
  cases i
  case sysNop | sysClear | md5Init =>
    cases h
    exact keepsSpaces_of_eq rfl rfl rfl rfl rfl rfl
  case rc5Decode => exact rc5Decode_keepsSpaces h
  case wAdd | wSub | wXor | wRolv | wRorv =>
    refine keepsSpaces_finish h fun u hu => ?_
    obtain ⟨w, a, b, -, -, -, rfl⟩ := wordBinary_eq_ok hu
    exact keepsSpaces_setWr ..
  case wAddb | wRol | wRor =>
    refine keepsSpaces_finish h fun u hu => ?_
    obtain ⟨w, a, -, -, rfl⟩ := wordUnary_eq_ok hu
    exact keepsSpaces_setWr ..
  all_goals
    refine keepsSpaces_finish h fun u hu => ?_
    simp only [bind_eq_ok, pure, Except.pure, Except.ok.injEq] at hu
  case wLd =>
    obtain ⟨w, -, -, -, -, -, rfl⟩ := hu
    exact keepsSpaces_setWr ..
  case wMov =>
    obtain ⟨w, -, v, -, rfl⟩ := hu
    exact keepsSpaces_setWr ..
  case wSt =>
    obtain ⟨w, -, -, -, v, -, -, -, rfl⟩ := hu
    exact keepsSpaces_setBuf _ (by simp [writesBuf])
  case rc5Encblk | rc5Decblk =>
    obtain ⟨w, -, rfl⟩ := hu
    exact keepsSpaces_setBuf _ (by simp [writesBuf])
  case lehGen =>
    obtain ⟨-, -, rfl⟩ := hu
    exact keepsSpaces_setSequence _ rfl
  case md5Block =>
    obtain ⟨-, -, -, -, rfl⟩ := hu
    exact keepsSpaces_md5Acc _
  case md5Digest | md5Hex =>
    obtain ⟨-, -, rfl⟩ := hu
    exact (keepsSpaces_md5Acc _).trans (keepsSpaces_setOutput _ rfl)
  case rc5Expand =>
    obtain ⟨w, -, rfl⟩ := hu
    exact keepsSpaces_buildTable w rfl
  case rc5Encode =>
    obtain ⟨w, -, rfl⟩ := hu
    exact (keepsSpaces_buildTable w rfl).trans (keepsSpaces_setOutput _ rfl)

/-! ### The matrix read back -/

theorem writesOutput_eq_true {i : Instr} (h : writesOutput i = true) :
    i ∈ [Instr.md5Digest, .md5Hex, .rc5Encode, .rc5Decode] := by
  cases i <;> simp_all [writesOutput]

theorem writesTable_eq_true {i : Instr} (h : writesTable i = true) :
    i ∈ [Instr.rc5Expand, .rc5Encode, .rc5Decode] := by
  cases i <;> simp_all [writesTable]

theorem writesSequence_eq_true {i : Instr} (h : writesSequence i = true) : i = .lehGen := by
  cases i <;> simp_all [writesSequence]

theorem writesBuf_eq_true {i : Instr} {sp : Buf} (h : writesBuf i sp = true) :
    (∃ ra off, i = .wSt ra sp off) ∨ (∃ off, i = .rc5Encblk sp off) ∨ (∃ off, i = .rc5Decblk sp off) ∨
      (sp = .outmem ∧ i ∈ [Instr.md5Digest, .md5Hex, .rc5Encode, .rc5Decode]) := by
  cases i <;> simp_all [writesBuf, writesOutput]

/-- Settles O29: a space that has changed is one the matrix names. -/
theorem commandsWriteOnlyTheirSpaces : Obligations.CommandsWriteOnlyTheirSpaces := by
  intro i s t h
  have hkeeps := exec_keepsSpaces h
  refine ⟨fun sp hne => writesBuf_eq_true ?buf, fun hne => writesTable_eq_true ?stab,
    fun hne => writesSequence_eq_true ?seqmem, fun hne => writesOutput_eq_true ?outlen, hkeeps.keylen, hkeeps.inlen⟩
  case buf => exact Bool.eq_true_of_not_eq_false (mt (hkeeps.buf sp) hne)
  case stab => exact Bool.eq_true_of_not_eq_false (mt hkeeps.stab hne)
  case seqmem => exact Bool.eq_true_of_not_eq_false (mt hkeeps.seqmem hne)
  case outlen => exact Bool.eq_true_of_not_eq_false (mt hkeeps.outlen hne)

end Sys2Proof.Machine
end

section
/-! PROOFS. The first command after reset (rules R121, R200, R313): O9. -/

namespace Sys2Proof.Machine

/-! ### The commands that check the width first -/

section Unsupported

variable {s : State} (h : s.unsupported)

include h

theorem checkWidth_of_unsupported : checkWidth s = .error ⟨.configuration, 1⟩ :=
  checkWidth_eq_error.mpr ⟨widthOf_eq_none h, rfl⟩

theorem checkCipherConfig_of_unsupported : checkCipherConfig s = .error ⟨.configuration, 1⟩ := by
  rw [checkCipherConfig, checkWidth_of_unsupported h]

/-- Every word command begins with the width check (rule R121). -/
theorem exec_word_of_unsupported (ra rb : WReg) (sp : Buf) (x : BitVec 16) :
    ∀ i ∈ [Instr.wLd ra sp x, .wSt ra sp x, .wMov ra rb, .wAdd ra rb, .wSub ra rb, .wXor ra rb, .wAddb ra x,
      .wRol ra x, .wRor ra x, .wRolv ra rb, .wRorv ra rb], exec i s = .next (s.failed 1 1) := by
  have hwidth := checkWidth_of_unsupported h
  intro i hi
  simp only [List.mem_cons, List.not_mem_nil, or_false] at hi
  rcases hi with rfl | rfl | rfl | rfl | rfl | rfl | rfl | rfl | rfl | rfl | rfl
  all_goals exact finish_bind_of_error hwidth

/-- Every RC5 command begins with the cipher configuration, whose first check is the width (rule R200). -/
theorem exec_rc5_of_unsupported (sp : Buf) (x : BitVec 16) :
    ∀ i ∈ [Instr.rc5Expand, .rc5Encblk sp x, .rc5Decblk sp x, .rc5Encode, .rc5Decode],
      exec i s = .next (s.failed 1 1) := by
  have hconfig := checkCipherConfig_of_unsupported h
  have hexpand : checkExpand s = .error ⟨.configuration, 1⟩ := by rw [checkExpand, hconfig]
  have hblock : checkBlock s sp x.toNat = .error ⟨.configuration, 1⟩ := by rw [checkBlock, hconfig, error_bind]
  have hencode : checkEncode s = .error ⟨.configuration, 1⟩ := by rw [checkEncode, hconfig, error_bind]
  have hdecode : checkDecode s = .error ⟨.configuration, 1⟩ := by rw [checkDecode, hconfig, error_bind]
  intro i hi
  simp only [List.mem_cons, List.not_mem_nil, or_false] at hi
  rcases hi with rfl | rfl | rfl | rfl | rfl
  · exact finish_bind_of_error hexpand
  · exact finish_bind_of_error hblock
  · exact finish_bind_of_error hblock
  · exact finish_bind_of_error hencode
  · rw [exec, execRc5Decode, hdecode]
    rfl

end Unsupported

/-! ### The digest of the empty message -/

/-- The accumulators of d41d8cd98f00b204e9800998ecf8427e (rule R313). -/
def emptyDigest : Acc := ⟨0xD98C1DD4#32, 0x04B2008F#32, 0x980980E9#32, 0x7E42F8EC#32⟩

theorem md5DigestAcc_nil : md5DigestAcc Config.default [] = emptyDigest := by decide +kernel

theorem accBytes_emptyDigest :
    accBytes emptyDigest =
      [0xd4#8, 0x1d#8, 0x8c#8, 0xd9#8, 0x8f#8, 0x00#8, 0xb2#8, 0x04#8, 0xe9#8, 0x80#8, 0x09#8, 0x98#8, 0xec#8, 0xf8#8,
        0x42#8, 0x7e#8] := by decide

theorem hexOf_accBytes_emptyDigest :
    hexOf (accBytes emptyDigest) =
      [0x64#8, 0x34#8, 0x31#8, 0x64#8, 0x38#8, 0x63#8, 0x64#8, 0x39#8, 0x38#8, 0x66#8, 0x30#8, 0x30#8, 0x62#8, 0x32#8,
        0x30#8, 0x34#8, 0x65#8, 0x39#8, 0x38#8, 0x30#8, 0x30#8, 0x39#8, 0x39#8, 0x38#8, 0x65#8, 0x63#8, 0x66#8, 0x38#8,
        0x34#8, 0x32#8, 0x37#8, 0x65#8] := by decide

/-- Settles O9: CFG_WORDSIZE, LEH_M and the lengths are 0 after reset, and the input is the empty message. -/
theorem firstCommandAfterReset : Obligations.FirstCommandAfterReset := by
  intro c ra rb sp x s acc
  have hacc : md5DigestAcc s.params s.input = emptyDigest := md5DigestAcc_nil
  have hlen : s.inlen.toNat ≤ s.params.bufMax := Nat.zero_le _
  have hblen : s.blen sp = 0 := by cases sp <;> rfl
  obtain ⟨hmodulus, -, -, -, -, hbounds⟩ := lehmerAndMd5CheckInOrder s sp x
  refine ⟨rfl, rfl, rfl, ?digest, ?hex, ?width, hmodulus rfl, hbounds ?cap ?fit⟩
  case digest =>
    rw [exec_md5Digest_of_le hlen, hacc, accBytes_emptyDigest]
    rfl
  case hex =>
    rw [exec_md5Hex_of_le hlen, hacc, hexOf_accBytes_emptyDigest]
    rfl
  case width =>
    have hreset : State.reset.unsupported := ⟨by decide, by decide, by decide⟩
    have hs : s.unsupported := hreset
    exact List.forall_mem_append.mpr ⟨exec_word_of_unsupported hs ra rb sp x, exec_rc5_of_unsupported hs sp x⟩
  case cap => exact hblen.trans_le (Nat.zero_le _)
  case fit => omega

end Sys2Proof.Machine
end

section
/-! PROOFS. The host's moves while BUSY = 1 (rules R61, R320): O16. -/

namespace Sys2Proof.Machine

section Busy

variable {s : State} (h : s.busy = true)

include h

theorem hostWrite_of_busy (n : Nat) (v : BitVec 64) : hostWrite s n v = s := by
  simp [hostWrite, h]

theorem hostRead_of_busy {n : Nat} (hstatus : n ≠ 0x01) (hprogress : n ≠ 0x18) :
    hostRead s n = { s with hostData := Config.free s.draws .busyRead, draws := s.draws + 1 } := by
  simp [hostRead, h, readBusy, hstatus, hprogress]

theorem hostBufWrite_of_busy {sp : Buf} {a : Nat} (ha : a < bufCap s.params sp) (b : Byte) :
    hostBufWrite s sp a b = .next s := by
  simp [hostBufWrite, Nat.not_le.mpr ha, h]

theorem hostBufRead_of_busy {q : Space} {a : Nat} (ha : a < spaceSize s.params q) :
    hostBufRead s q a = .next { s with hostData := Config.free s.draws .busyRead, draws := s.draws + 1 } := by
  simp [hostBufRead, Nat.not_le.mpr ha, h]

end Busy

/-- Settles O16. -/
theorem busyTurnsHostMovesAway : Obligations.BusyTurnsHostMovesAway := by
  intro s n a v b sp q h
  have hframe (m : Nat) : hostRead s m =
      { s with hostData := (hostRead s m).hostData, draws := (hostRead s m).draws, seen := (hostRead s m).seen } := by
    obtain ⟨hostData, draws, seen, heq, -⟩ := hostRead_eq s m
    rw [heq]
  refine ⟨hostWrite_of_busy h n v, fun ha => hostBufWrite_of_busy h ha b, hostRead_of_busy h, hostBufRead_of_busy h,
    fun t ht => ?readable, fun ha => hostBufWrite_of_outside ha b, hostBufRead_of_outside⟩
  case readable => rcases ht with rfl | rfl <;> exact hframe _

end Sys2Proof.Machine
end

section
/-! PROOFS. The command word: its fields, the words of each format, and the opcode map (rules R90 to R102): O1, O2, O3,
O4. -/

namespace Sys2Proof

/-! ### A word is its four fields -/

theorem eq_iff_fields (c d : BitVec 32) :
    c = d ↔ fieldOpc c = fieldOpc d ∧ fieldRa c = fieldRa d ∧ fieldRb c = fieldRb d ∧ fieldImm c = fieldImm d := by
  refine ⟨by rintro rfl; simp, ?_⟩
  simp only [← BitVec.toNat_inj, fieldOpc, fieldRa, fieldRb, fieldImm, BitVec.extractLsb'_toNat,
    Nat.shiftRight_eq_div_pow]
  omega

/-- The word put together from four fields is the only one that has them (rule R100). -/
theorem wordOf_eq_iff (o : BitVec 8) (a b : Nat) (m : BitVec 16) (c : BitVec 32) :
    wordOf o a b m = c ↔
      fieldOpc c = o ∧ fieldRa c = BitVec.ofNat 4 a ∧ fieldRb c = BitVec.ofNat 4 b ∧ fieldImm c = m := by
  rw [eq_comm, eq_iff_fields, fieldOpc_wordOf, fieldRa_wordOf, fieldRb_wordOf, fieldImm_wordOf]

theorem fields_and (c d : BitVec 32) :
    fieldOpc (c &&& d) = fieldOpc c &&& fieldOpc d ∧ fieldRa (c &&& d) = fieldRa c &&& fieldRa d ∧
      fieldRb (c &&& d) = fieldRb c &&& fieldRb d ∧ fieldImm (c &&& d) = fieldImm c &&& fieldImm d :=
  ⟨BitVec.extractLsb'_and, BitVec.extractLsb'_and, BitVec.extractLsb'_and, BitVec.extractLsb'_and⟩

/-! ### The register and the space fields -/

theorem WReg.ofField_eq_some_iff (f : BitVec 4) (a : WReg) : WReg.ofField f = some a ↔ f = BitVec.ofNat 4 a.number := by
  cases a <;> revert f <;> decide

theorem Buf.ofField_eq_some_iff (f : BitVec 4) (sp : Buf) : Buf.ofField f = some sp ↔ f = BitVec.ofNat 4 sp.code := by
  cases sp <;> revert f <;> decide

/-- A field names a register when its upper two bits are zero, as the masks of rule R96 ask. -/
theorem exists_eq_number_iff (f : BitVec 4) : (∃ a : WReg, f = BitVec.ofNat 4 a.number) ↔ f &&& 0xC#4 = 0#4 := by
  simp only [← WReg.ofField_eq_some_iff, ← Option.isSome_iff_exists]
  revert f
  decide

/-- A field selects a space when its upper two bits are zero and it is not 3 (rule R96). -/
theorem exists_eq_code_iff (f : BitVec 4) :
    (∃ sp : Buf, f = BitVec.ofNat 4 sp.code) ↔ f &&& 0xC#4 = 0#4 ∧ ¬f = 3#4 := by
  simp only [← Buf.ofField_eq_some_iff, ← Option.isSome_iff_exists]
  revert f
  decide

/-! ### What each format reads: the words it accepts, with their operands (rules R91 to R94) -/

theorem ite_error_eq_ok_iff {p : Prop} [Decidable p] {x : Except Illegal Instr} {e : Illegal} {i : Instr} :
    (if p then x else .error e) = .ok i ↔ p ∧ x = .ok i := by
  split <;> simp [*]

section Formats

variable {c : BitVec 32} {o : BitVec 8} (ho : fieldOpc c = o) {i : Instr}

include ho

theorem formatN_eq_ok_iff {j : Instr} : formatN c j = .ok i ↔ wordOf o 0 0 0#16 = c ∧ j = i := by
  simp [formatN, ite_error_eq_ok_iff, wordOf_eq_iff, ho]

theorem formatR_eq_ok_iff {k : WReg → WReg → Instr} :
    formatR c k = .ok i ↔ ∃ a b, wordOf o a.number b.number 0#16 = c ∧ k a b = i := by
  simp only [formatR, ite_error_eq_ok_iff, wordOf_eq_iff, ← WReg.ofField_eq_some_iff, ho, true_and]
  cases WReg.ofField (fieldRa c) <;> cases WReg.ofField (fieldRb c) <;> simp

theorem formatI_eq_ok_iff {k : WReg → BitVec 16 → Instr} :
    formatI c k = .ok i ↔ ∃ a n, wordOf o a.number 0 n = c ∧ k a n = i := by
  simp only [formatI, ite_error_eq_ok_iff, wordOf_eq_iff, ← WReg.ofField_eq_some_iff, ho, true_and]
  cases WReg.ofField (fieldRa c) <;> simp

theorem formatIByte_eq_ok_iff {k : WReg → BitVec 16 → Instr} :
    formatIByte c k = .ok i ↔ ∃ a n, wordOf o a.number 0 n = c ∧ n.toNat ≤ 255 ∧ k a n = i := by
  rw [formatIByte, ite_error_eq_ok_iff, formatI_eq_ok_iff ho]
  constructor
  · rintro ⟨hn, a, n, rfl, hk⟩
    exact ⟨a, n, rfl, by rwa [fieldImm_wordOf] at hn, hk⟩
  · rintro ⟨a, n, rfl, hn, hk⟩
    exact ⟨by rwa [fieldImm_wordOf], a, n, rfl, hk⟩

theorem formatMReg_eq_ok_iff {k : WReg → Buf → BitVec 16 → Instr} :
    formatMReg c k = .ok i ↔ ∃ a sp n, wordOf o a.number sp.code n = c ∧ k a sp n = i := by
  simp only [formatMReg, wordOf_eq_iff, ← WReg.ofField_eq_some_iff, ← Buf.ofField_eq_some_iff, ho, true_and]
  cases WReg.ofField (fieldRa c) <;> cases Buf.ofField (fieldRb c) <;> simp

theorem formatM_eq_ok_iff {k : Buf → BitVec 16 → Instr} :
    formatM c k = .ok i ↔ ∃ sp n, wordOf o 0 sp.code n = c ∧ k sp n = i := by
  simp only [formatM, ite_error_eq_ok_iff, wordOf_eq_iff, ← Buf.ofField_eq_some_iff, ho, true_and]
  cases Buf.ofField (fieldRb c) <;> simp

end Formats

/-! ### The decoder and the encoder -/

/-- Settles O1. -/
theorem decodeUndoesEncode : Obligations.DecodeUndoesEncode := by
  intro i hi
  have ho {o a b m} : fieldOpc (wordOf o a b m) = o := fieldOpc_wordOf o a b m
  cases i <;> simp only [encode, decode, ho]
  case wLd a sp n | wSt a sp n => exact (formatMReg_eq_ok_iff ho).mpr ⟨a, sp, n, rfl, rfl⟩
  case wMov a b | wAdd a b | wSub a b | wXor a b | wRolv a b | wRorv a b =>
    exact (formatR_eq_ok_iff ho).mpr ⟨a, b, rfl, rfl⟩
  case wAddb a n => exact (formatIByte_eq_ok_iff ho).mpr ⟨a, n, rfl, of_decide_eq_true hi, rfl⟩
  case wRol a n | wRor a n => exact (formatI_eq_ok_iff ho).mpr ⟨a, n, rfl, rfl⟩
  case md5Block sp n | rc5Encblk sp n | rc5Decblk sp n => exact (formatM_eq_ok_iff ho).mpr ⟨sp, n, rfl, rfl⟩
  all_goals exact (formatN_eq_ok_iff ho).mpr ⟨rfl, rfl⟩

/-- Settles O2. -/
theorem encodeUndoesDecode : Obligations.EncodeUndoesDecode := by
  intro c i h
  unfold decode at h
  -- the arms h_1 to h_24 are those of decode, in its order; ho is the opcode of the arm
  split at h
  case h_3 ho | h_4 ho =>
    obtain ⟨a, sp, n, rfl, rfl⟩ := (formatMReg_eq_ok_iff ho).mp h
    exact ⟨rfl, rfl⟩
  case h_5 ho | h_6 ho | h_7 ho | h_8 ho | h_12 ho | h_13 ho =>
    obtain ⟨a, b, rfl, rfl⟩ := (formatR_eq_ok_iff ho).mp h
    exact ⟨rfl, rfl⟩
  case h_9 ho =>
    obtain ⟨a, n, rfl, hn, rfl⟩ := (formatIByte_eq_ok_iff ho).mp h
    exact ⟨decide_eq_true hn, rfl⟩
  case h_10 ho | h_11 ho =>
    obtain ⟨a, n, rfl, rfl⟩ := (formatI_eq_ok_iff ho).mp h
    exact ⟨rfl, rfl⟩
  case h_16 ho | h_20 ho | h_21 ho =>
    obtain ⟨sp, n, rfl, rfl⟩ := (formatM_eq_ok_iff ho).mp h
    exact ⟨rfl, rfl⟩
  case h_24 => contradiction
  all_goals
    obtain ⟨rfl, rfl⟩ := (formatN_eq_ok_iff ‹_›).mp h
    exact ⟨rfl, rfl⟩

/-! ### The opcode map, row by row -/

/-- The rows of rule R96 by format: the mask and the match field by field, the match being 0 outside the opcode. -/
def rowOf (ra rb : Nat) (imm : BitVec 16) (sp : Bool) (o : BitVec 8) : MapRow :=
  ⟨wordOf 0xFF#8 ra rb imm, wordOf o 0 0 0#16, sp⟩

/-- Format N: every bit is fixed. -/
def rowN : BitVec 8 → MapRow := rowOf 0xF 0xF 0xFFFF#16 false

/-- Format R: two register fields. -/
def rowR : BitVec 8 → MapRow := rowOf 0xC 0xC 0xFFFF#16 false

/-- Format I: a register field and a free immediate. -/
def rowI : BitVec 8 → MapRow := rowOf 0xC 0xF 0#16 false

/-- Format I of W_ADDB: the upper byte of the immediate is fixed. -/
def rowIByte : BitVec 8 → MapRow := rowOf 0xC 0xF 0xFF00#16 false

/-- Format M of W_LD and W_ST: a register field and a space select. -/
def rowMReg : BitVec 8 → MapRow := rowOf 0xC 0xC 0#16 true

/-- Format M of the block commands: a space select only. -/
def rowM : BitVec 8 → MapRow := rowOf 0xF 0xC 0#16 true

theorem opcodeMap_eq_rows : opcodeMap =
    [rowN 0x00#8, rowN 0x01#8, rowMReg 0x10#8, rowMReg 0x11#8, rowR 0x12#8, rowR 0x13#8, rowR 0x14#8, rowR 0x15#8,
     rowIByte 0x16#8, rowI 0x17#8, rowI 0x18#8, rowR 0x19#8, rowR 0x1A#8, rowN 0x20#8, rowN 0x30#8, rowM 0x31#8,
     rowN 0x32#8, rowN 0x33#8, rowN 0x40#8, rowM 0x41#8, rowM 0x42#8, rowN 0x43#8, rowN 0x44#8] := by
  decide

theorem rowOf_accepts_iff (ra rb : Nat) (imm : BitVec 16) (sp : Bool) (o : BitVec 8) (c : BitVec 32) :
    (rowOf ra rb imm sp o).accepts c = true ↔
      fieldOpc c = o ∧ fieldRa c &&& BitVec.ofNat 4 ra = 0#4 ∧
        (fieldRb c &&& BitVec.ofNat 4 rb = 0#4 ∧ (sp = true → ¬fieldRb c = 3#4)) ∧ fieldImm c &&& imm = 0#16 := by
  obtain ⟨hopc, hra, hrb, himm⟩ := fields_and c (wordOf 0xFF#8 ra rb imm)
  have hopc' : fieldOpc c &&& 0xFF#8 = fieldOpc c := BitVec.and_allOnes
  have hsp : (!sp || fieldRb c != 3#4) = true ↔ (sp = true → ¬fieldRb c = 3#4) := by cases sp <;> simp
  simp only [MapRow.accepts, rowOf, Bool.and_eq_true, beq_iff_eq, eq_iff_fields, hopc, hra, hrb, himm, fields_wordOf,
    hopc', hsp]
  tauto

theorem and_fullMask4 (f : BitVec 4) : f &&& 0xF#4 = f := BitVec.and_allOnes

theorem and_fullMask16 (m : BitVec 16) : m &&& 0xFFFF#16 = m := BitVec.and_allOnes

/-- The upper byte of the immediate is zero when the immediate is at most 255. -/
theorem and_upperByte_eq_zero_iff (m : BitVec 16) : m &&& 0xFF00#16 = 0#16 ↔ m.toNat ≤ 255 := by
  have hsplit : m &&& 0xFF00#16 ||| m &&& 0xFF#16 = m := by
    rw [← BitVec.and_or_distrib_left]
    exact BitVec.and_allOnes
  have hlow : (m &&& 0xFF#16).toNat = m.toNat % 256 := Nat.and_two_pow_sub_one_eq_mod m.toNat 8
  constructor
  · intro h
    rw [h, BitVec.zero_or] at hsplit
    rw [hsplit] at hlow
    omega
  · intro h
    have hm : m &&& 0xFF#16 = m := BitVec.eq_of_toNat_eq (hlow.trans (Nat.mod_eq_of_lt (by omega)))
    rw [← hm, BitVec.and_assoc]
    exact BitVec.and_zero

section Rows

variable {o : BitVec 8} {c : BitVec 32}

theorem rowN_accepts_iff : (rowN o).accepts c = true ↔ wordOf o 0 0 0#16 = c := by
  simp [rowN, rowOf_accepts_iff, wordOf_eq_iff, and_fullMask4, and_fullMask16]

theorem rowR_accepts_iff : (rowR o).accepts c = true ↔ ∃ a b : WReg, wordOf o a.number b.number 0#16 = c := by
  simp [rowR, rowOf_accepts_iff, wordOf_eq_iff, ← exists_eq_number_iff, and_fullMask16]

theorem rowI_accepts_iff : (rowI o).accepts c = true ↔ ∃ (a : WReg) (n : BitVec 16), wordOf o a.number 0 n = c := by
  simp [rowI, rowOf_accepts_iff, wordOf_eq_iff, ← exists_eq_number_iff, and_fullMask4]

theorem rowIByte_accepts_iff :
    (rowIByte o).accepts c = true ↔ ∃ (a : WReg) (n : BitVec 16), wordOf o a.number 0 n = c ∧ n.toNat ≤ 255 := by
  simp [rowIByte, rowOf_accepts_iff, wordOf_eq_iff, ← exists_eq_number_iff, and_upperByte_eq_zero_iff, and_fullMask4,
    and_assoc]

theorem rowMReg_accepts_iff :
    (rowMReg o).accepts c = true ↔ ∃ (a : WReg) (sp : Buf) (n : BitVec 16), wordOf o a.number sp.code n = c := by
  simp [rowMReg, rowOf_accepts_iff, wordOf_eq_iff, ← exists_eq_number_iff, exists_eq_code_iff]

theorem rowM_accepts_iff : (rowM o).accepts c = true ↔ ∃ (sp : Buf) (n : BitVec 16), wordOf o 0 sp.code n = c := by
  simp [rowM, rowOf_accepts_iff, wordOf_eq_iff, and_fullMask4, exists_eq_code_iff]

end Rows

/-- The word of a well-formed command is accepted by the row of its opcode. -/
theorem exists_row_accepts_encode {i : Instr} (hi : i.wellFormed = true) :
    ∃ r ∈ opcodeMap, r.accepts (encode i) = true := by
  rw [opcodeMap_eq_rows]
  cases i
  case wLd a sp n | wSt a sp n => exact ⟨rowMReg _, by decide, rowMReg_accepts_iff.mpr ⟨a, sp, n, rfl⟩⟩
  case wMov a b | wAdd a b | wSub a b | wXor a b | wRolv a b | wRorv a b =>
    exact ⟨rowR _, by decide, rowR_accepts_iff.mpr ⟨a, b, rfl⟩⟩
  case wAddb a n => exact ⟨rowIByte _, by decide, rowIByte_accepts_iff.mpr ⟨a, n, rfl, of_decide_eq_true hi⟩⟩
  case wRol a n | wRor a n => exact ⟨rowI _, by decide, rowI_accepts_iff.mpr ⟨a, n, rfl⟩⟩
  case md5Block sp n | rc5Encblk sp n | rc5Decblk sp n =>
    exact ⟨rowM _, by decide, rowM_accepts_iff.mpr ⟨sp, n, rfl⟩⟩
  all_goals exact ⟨rowN _, by decide, rowN_accepts_iff.mpr rfl⟩

/-- A row accepts only words of well-formed commands. -/
theorem exists_encode_eq_of_accepts {c : BitVec 32} :
    ∀ r ∈ opcodeMap, r.accepts c = true → ∃ i : Instr, i.wellFormed = true ∧ encode i = c := by
  simp only [opcodeMap_eq_rows, List.forall_mem_cons, rowN_accepts_iff, rowR_accepts_iff, rowI_accepts_iff,
    rowIByte_accepts_iff, rowMReg_accepts_iff, rowM_accepts_iff]
  exact ⟨fun h => ⟨.sysNop, rfl, h⟩, fun h => ⟨.sysClear, rfl, h⟩,
    fun ⟨a, sp, n, h⟩ => ⟨.wLd a sp n, rfl, h⟩, fun ⟨a, sp, n, h⟩ => ⟨.wSt a sp n, rfl, h⟩,
    fun ⟨a, b, h⟩ => ⟨.wMov a b, rfl, h⟩, fun ⟨a, b, h⟩ => ⟨.wAdd a b, rfl, h⟩,
    fun ⟨a, b, h⟩ => ⟨.wSub a b, rfl, h⟩, fun ⟨a, b, h⟩ => ⟨.wXor a b, rfl, h⟩,
    fun ⟨a, n, h, hn⟩ => ⟨.wAddb a n, decide_eq_true hn, h⟩,
    fun ⟨a, n, h⟩ => ⟨.wRol a n, rfl, h⟩, fun ⟨a, n, h⟩ => ⟨.wRor a n, rfl, h⟩,
    fun ⟨a, b, h⟩ => ⟨.wRolv a b, rfl, h⟩, fun ⟨a, b, h⟩ => ⟨.wRorv a b, rfl, h⟩,
    fun h => ⟨.lehGen, rfl, h⟩, fun h => ⟨.md5Init, rfl, h⟩, fun ⟨sp, n, h⟩ => ⟨.md5Block sp n, rfl, h⟩,
    fun h => ⟨.md5Digest, rfl, h⟩, fun h => ⟨.md5Hex, rfl, h⟩, fun h => ⟨.rc5Expand, rfl, h⟩,
    fun ⟨sp, n, h⟩ => ⟨.rc5Encblk sp n, rfl, h⟩, fun ⟨sp, n, h⟩ => ⟨.rc5Decblk sp n, rfl, h⟩,
    fun h => ⟨.rc5Encode, rfl, h⟩, fun h => ⟨.rc5Decode, rfl, h⟩, nofun⟩

/-- Every mask includes the opcode, so a word that matches a row has the row's opcode (rule R97). -/
theorem fieldOpc_value_of_match {c : BitVec 32} {r : MapRow} (hr : r ∈ opcodeMap) (h : c &&& r.mask = r.value) :
    fieldOpc r.value = fieldOpc c := by
  have hmask : ∀ r ∈ opcodeMap, fieldOpc r.mask = BitVec.allOnes 8 := by decide
  obtain ⟨hopc, -, -, -⟩ := fields_and c r.mask
  rw [← h, hopc, hmask r hr, BitVec.and_allOnes]

theorem row_eq_of_fieldOpc_value_eq :
    ∀ r ∈ opcodeMap, ∀ q ∈ opcodeMap, fieldOpc r.value = fieldOpc q.value → r = q := by
  decide

/-- Settles O3. -/
theorem decoderAgreesWithOpcodeMap : Obligations.DecoderAgreesWithOpcodeMap := by
  intro c
  have haccepts {i} (h : decode c = .ok i) : ∃ r ∈ opcodeMap, r.accepts c = true := by
    obtain ⟨hi, rfl⟩ := encodeUndoesDecode c i h
    exact exists_row_accepts_encode hi
  refine ⟨⟨fun ⟨i, h⟩ => haccepts h, ?accepted⟩, fun r hr q hq hmatch hmatch' => ?unique, fun i h => ?opcode⟩
  case accepted =>
    rintro ⟨r, hr, h⟩
    obtain ⟨i, hi, rfl⟩ := exists_encode_eq_of_accepts r hr h
    exact ⟨i, decodeUndoesEncode i hi⟩
  case unique =>
    exact row_eq_of_fieldOpc_value_eq r hr q hq
      ((fieldOpc_value_of_match hr hmatch).trans (fieldOpc_value_of_match hq hmatch').symm)
  case opcode =>
    obtain ⟨r, hr, hacc⟩ := haccepts h
    obtain ⟨hmatch, -⟩ := Bool.and_eq_true_iff.mp hacc
    obtain ⟨-, rfl⟩ := encodeUndoesDecode c i h
    exact ⟨r, hr, hacc, fieldOpc_value_of_match hr (beq_iff_eq.mp hmatch)⟩

/-- Settles O4. -/
theorem writtenWordsDecode : Obligations.WrittenWordsDecode := by
  unfold Obligations.WrittenWordsDecode
  decide

end Sys2Proof
end

section
/-! PROOFS. The word commands: their checks in order, the laws of the word operations, and W_MOV (rules R120 to R134):
O24, O34, O37. -/

namespace Sys2Proof.Machine

/-! ### Rotates as one cyclic shift -/

section Rotates

variable {w : Nat} (a : BitVec w)

/-- Rotating left reads the bits, counted from the top, cyclically. -/
theorem getMsbD_rotlW (n i : Nat) : (rotlW a n).getMsbD i = (decide (i < w) && a.getMsbD ((n + i) % w)) :=
  BitVec.getMsbD_rotateLeft

/-- Rotates to the left add their amounts. -/
theorem rotlW_rotlW (m n : Nat) : rotlW (rotlW a m) n = rotlW a (m + n) := by
  refine BitVec.eq_of_getMsbD_eq fun i hi => ?_
  have hmod : (n + i) % w < w := Nat.mod_lt _ (Nat.zero_lt_of_lt hi)
  simp [getMsbD_rotlW, hi, hmod, Nat.add_assoc]

theorem rotlW_mod (n : Nat) : rotlW a (n % w) = rotlW a n :=
  BitVec.rotateLeft_mod_eq_rotateLeft

theorem rotlW_zero : rotlW a 0 = a := by
  refine BitVec.eq_of_getMsbD_eq fun i hi => ?_
  simp [getMsbD_rotlW, hi, Nat.mod_eq_of_lt hi]

/-- A rotate by a multiple of the width changes nothing. -/
theorem rotlW_of_dvd {n : Nat} (h : w ∣ n) : rotlW a n = a := by
  rw [← rotlW_mod, Nat.mod_eq_zero_of_dvd h, rotlW_zero]

/-- A rotate to the right is the rotate to the left that completes the turn, also for amounts that are multiples of
the width (rules R13, R131). -/
theorem rotrW_eq_rotlW (n : Nat) : rotrW a n = rotlW a (w - n % w) := by
  refine BitVec.eq_of_getMsbD_eq fun i hi => ?_
  have hk : n % w < w := Nat.mod_lt n (Nat.zero_lt_of_lt hi)
  rw [rotrW, BitVec.getMsbD_rotateRight, getMsbD_rotlW]
  congr 1
  split
  case isTrue => rw [Nat.sub_add_comm hk.le]
  case isFalse hge =>
    have hturn : w - n % w + i = w + (i - n % w) := by omega
    have hlt : i - n % w < w := (Nat.sub_le i _).trans_lt hi
    rw [hturn, Nat.add_mod_left, Nat.mod_eq_of_lt hlt]

/-- An amount and what completes its turn make whole turns. -/
theorem dvd_add_sub_mod (hw : 0 < w) (n : Nat) : w ∣ n + (w - n % w) := by
  have hk : n % w ≤ w := (Nat.mod_lt n hw).le
  rw [← Nat.add_sub_assoc hk, Nat.sub_add_comm (Nat.mod_le n w)]
  exact Nat.dvd_add (Nat.dvd_sub_mod n) (Nat.dvd_refl w)

theorem rotrW_rotlW (hw : 0 < w) (n : Nat) : rotrW (rotlW a n) n = a := by
  rw [rotrW_eq_rotlW, rotlW_rotlW, rotlW_of_dvd a (dvd_add_sub_mod hw n)]

theorem rotlW_rotrW (hw : 0 < w) (n : Nat) : rotlW (rotrW a n) n = a := by
  rw [rotrW_eq_rotlW, rotlW_rotlW, Nat.add_comm, rotlW_of_dvd a (dvd_add_sub_mod hw n)]

end Rotates

theorem xorW_xorW_cancel {w : Nat} (a b : BitVec w) : xorW (xorW a b) b = a := by
  rw [xorW, xorW, BitVec.xor_assoc, BitVec.xor_self, BitVec.xor_zero]

/-- Settles O34: rotates to the left add their amounts, and one to the right completes the turn. -/
theorem wordOperationsInvertEachOther : Obligations.WordOperationsInvertEachOther := by
  intro w a b n
  exact ⟨BitVec.add_sub_cancel a b, BitVec.sub_add_cancel a b, xorW_xorW_cancel a b, rotrW_rotlW a (bits_pos w) n,
    rotlW_rotrW a (bits_pos w) n, (rotlW_mod a n).symm, rotlW_zero a, rotrW_eq_rotlW a n⟩

/-! ### The tag checks of the register-only commands -/

section Tags

variable {w : Width} {s : State} {ra rb : WReg}

/-- ra is the first register a two-register command reads (rules R120, R279). -/
theorem finish_wordBinary_of_mistagged_left {f : (w : Width) → Word w → Word w → Word w} (hw : s.configured w)
    (ha : s.mistagged w ra) :
    finish (wordBinary f ra rb s) s = .next (s.failed 7 (BitVec.ofNat 32 ra.number)) :=
  (finish_bind_of_ok (checkWidth_eq_ok.mpr hw)).trans (finish_bind_of_error (readWord_of_mistagged ha))

/-- rb is looked at once ra has passed (rules R120, R279). -/
theorem finish_wordBinary_of_mistagged_right {f : (w : Width) → Word w → Word w → Word w} (hw : s.configured w)
    (ha : ¬ s.mistagged w ra) (hb : s.mistagged w rb) :
    finish (wordBinary f ra rb s) s = .next (s.failed 7 (BitVec.ofNat 32 rb.number)) := by
  obtain ⟨v, hv⟩ := exists_readWord_of_not_mistagged ha
  exact ((finish_bind_of_ok (checkWidth_eq_ok.mpr hw)).trans (finish_bind_of_ok hv)).trans
    (finish_bind_of_error (readWord_of_mistagged hb))

theorem finish_wordUnary_of_mistagged {f : (w : Width) → Word w → Word w} (hw : s.configured w)
    (ha : s.mistagged w ra) :
    finish (wordUnary f ra s) s = .next (s.failed 7 (BitVec.ofNat 32 ra.number)) :=
  (finish_bind_of_ok (checkWidth_eq_ok.mpr hw)).trans (finish_bind_of_error (readWord_of_mistagged ha))

/-- W_MOV reads rb alone (rule R125). -/
theorem exec_wMov_of_mistagged (hw : s.configured w) (hb : s.mistagged w rb) :
    exec (.wMov ra rb) s = .next (s.failed 7 (BitVec.ofNat 32 rb.number)) :=
  (finish_bind_of_ok (checkWidth_eq_ok.mpr hw)).trans (finish_bind_of_error (readWord_of_mistagged hb))

end Tags

/-- Settles O24: the commands of two registers are `wordBinary`, those of an immediate `wordUnary`. -/
theorem wordCommandsCheckWidthThenTags : Obligations.WordCommandsCheckWidthThenTags := by
  intro s ra rb sp x
  refine ⟨fun h => exec_word_of_unsupported h ra rb sp x,
    fun w hw => ⟨fun ha => ?left, fun ha hb => ?right, exec_wMov_of_mistagged hw⟩⟩
  case left =>
    have hpair {f} := finish_wordBinary_of_mistagged_left (f := f) (rb := rb) hw ha
    have himm {f} := finish_wordUnary_of_mistagged (f := f) hw ha
    simp only [List.forall_mem_cons]
    exact ⟨hpair, hpair, hpair, hpair, hpair, himm, himm, himm, nofun⟩
  case right =>
    have hpair {f} := finish_wordBinary_of_mistagged_right (f := f) hw ha hb
    simp only [List.forall_mem_cons]
    exact ⟨hpair, hpair, hpair, hpair, hpair, nofun⟩

/-! ### W_MOV -/

/-- Settles O37: the word read from rb is written to ra under the tag it was read with. -/
theorem moveCopiesTheWord : Obligations.MoveCopiesTheWord := by
  intro w s ra rb v hw hb
  have hcopy : s.setWr ra (s.wr rb) = s.setWord w ra v := by rw [hb, State.setWord]
  rw [hcopy]
  exact (finish_bind_of_ok (checkWidth_eq_ok.mpr hw)).trans (finish_bind_of_ok (readWord_of_holds hb))

end Sys2Proof.Machine
end

section
/-! PROOFS. The repetition that a run of LEH_GEN reports (rules R153 to R155): O41. -/

namespace Sys2Proof.Machine

/-- What a run has found in the sequence it has stored: no repetition, and the seen map holds every value with its
index; or the first one, at index i, of the value at index j. -/
inductive LehRun.Reports (r : LehRun) : Prop
  | distinct (found : r.found = none) (seen : r.seen = r.seq.zipIdx) (nodup : r.seq.Nodup)
  | repetition (i j : Nat) (found : r.found = some (i - j, i)) (lt : j < i) (length : i < r.seq.length)
      (repeats : r.seq[i]? = r.seq[j]?) (nodup : (r.seq.take i).Nodup)

theorem seq_lehIter (A C M n i : Nat) (r : LehRun) :
    (lehIter A C M n i r).seq = r.seq ++ [lehNext A C M r.cur] := by
  obtain ⟨seen, found, hr, -⟩ := lehIter_cases A C M n i r
  rw [hr]

section Iteration

variable {A C M n i j : Nat} {f : Nat × Nat} {r : LehRun}

/-- Once a repetition is found, the loop records no other (rule R153). -/
theorem found_lehIter_of_some (hf : r.found = some f) : (lehIter A C M n i r).found = some f := by
  simp only [lehIter, hf]

/-- A value the map does not hold is put into it with its index (rule R153). -/
theorem lehIter_of_new (hf : r.found = none) (hl : r.seen.lookup (lehNext A C M r.cur) = none) :
    (lehIter A C M n i r).found = none ∧ (lehIter A C M n i r).seen = r.seen ++ [(lehNext A C M r.cur, i)] := by
  simp only [lehIter, hf, hl, and_self]

/-- A value the map holds is a repetition (rules R153, R154). -/
theorem found_lehIter_of_seen (hf : r.found = none) (hl : r.seen.lookup (lehNext A C M r.cur) = some j) :
    (lehIter A C M n i r).found = some (i - j, i) := by
  simp only [lehIter, hf, hl]

end Iteration

theorem lookup_zipIdx_eq_none {l : List Nat} {x : Nat} (h : l.zipIdx.lookup x = none) : x ∉ l := by
  intro hx
  obtain ⟨k, hk⟩ := List.mem_iff_getElem?.mp hx
  have hmem : (x, k) ∈ l.zipIdx := List.mk_mem_zipIdx_iff_getElem?.mpr hk
  simpa using List.lookup_eq_none_iff.mp h _ hmem

theorem lookup_zipIdx_eq_some {l : List Nat} {x j : Nat} (h : l.zipIdx.lookup x = some j) : l[j]? = some x := by
  obtain ⟨l₁, l₂, hsplit, -⟩ := List.lookup_eq_some_iff.mp h
  exact List.mk_mem_zipIdx_iff_getElem?.mp (by simp [hsplit])

/-- The iteration that stores the next value reports what the sequence then holds. -/
theorem lehIter_reports {A C M n : Nat} {r : LehRun} (h : r.Reports) : (lehIter A C M n r.seq.length r).Reports := by
  have hseq := seq_lehIter A C M n r.seq.length r
  cases h with
  | distinct hfound hseen hnodup =>
    cases hl : r.seen.lookup (lehNext A C M r.cur) with
    | none =>
      have hnew : lehNext A C M r.cur ∉ r.seq := lookup_zipIdx_eq_none (hseen ▸ hl)
      obtain ⟨hfound', hseen'⟩ := lehIter_of_new (n := n) (i := r.seq.length) hfound hl
      refine .distinct hfound' ?_ ?_
      · rw [hseen', hseq, hseen, List.zipIdx_append, Nat.zero_add]
        rfl
      · rw [hseq]
        exact List.concat_eq_append ▸ hnodup.concat hnew
    | some j =>
      have hj : r.seq[j]? = some (lehNext A C M r.cur) := lookup_zipIdx_eq_some (hseen ▸ hl)
      obtain ⟨hlt, -⟩ := List.getElem?_eq_some_iff.mp hj
      refine .repetition r.seq.length j (found_lehIter_of_seen hfound hl) hlt ?_ ?_ ?_
      · simp [hseq]
      · simp [hseq, List.getElem?_append_left hlt, hj]
      · simpa [hseq] using hnodup
  | repetition i j hfound hlt hlen hrep hnodup =>
    refine .repetition i j (found_lehIter_of_some hfound) hlt ?_ ?_ ?_
    · simp only [hseq, List.length_append]
      omega
    · rwa [hseq, List.getElem?_append_left hlen, List.getElem?_append_left (hlt.trans hlen)]
    · rwa [hseq, List.take_append_of_le_length hlen.le]

theorem lehLoop_reports {A C M n : Nat} (m : Nat) {r : LehRun} (h : r.Reports) :
    (lehLoop A C M n m r.seq.length r).Reports := by
  induction m generalizing r with
  | zero => exact h
  | succ m ih =>
    have hrest := ih (lehIter_reports (A := A) (C := C) (M := M) (n := n) h)
    rwa [seq_lehIter, List.length_append] at hrest

/-- A whole generation reports the first repetition of its sequence (rules R153, R155). -/
theorem lehRun_reports (A C M X0 n : Nat) : (lehRun A C M X0 n).Reports :=
  lehLoop_reports (n - 1) (r := lehStart n X0) (.distinct rfl rfl (List.nodup_singleton X0))

/-- Different numbers of 64 bits are different entries of SEQMEM. -/
theorem nodup_map_ofNat {l : List Nat} (hl : ∀ x ∈ l, x < 2 ^ 64) (h : l.Nodup) :
    (l.map (BitVec.ofNat 64)).Nodup := by
  refine h.map_on fun x hx y hy hxy => ?_
  have hnat := congrArg BitVec.toNat hxy
  rwa [BitVec.toNat_ofNat, BitVec.toNat_ofNat, Nat.mod_eq_of_lt (hl x hx), Nat.mod_eq_of_lt (hl y hy)] at hnat

/-- Entries below i of a list whose first i entries have no duplicate are different. -/
theorem getElem?_ne_of_nodup_take {l : List (BitVec 64)} {i i' j' : Nat} (h : (l.take i).Nodup) (hi : i ≤ l.length)
    (hj' : j' < i') (hi' : i' < i) : l[i']? ≠ l[j']? := by
  have hne := List.nodup_iff_getElem?_ne_getElem?.mp h j' i' hj' (by rwa [List.length_take_of_le hi])
  rw [List.getElem?_take_of_lt (hj'.trans hi'), List.getElem?_take_of_lt hi'] at hne
  exact hne.symm

theorem setSequence_of_found_none {s : State} {r : LehRun} (h : r.found = none) :
    (s.setSequence r).pvalid = false ∧ (s.setSequence r).lehPeriod = 0 ∧ (s.setSequence r).lehFirstocc = 0 := by
  simp [h]

theorem setSequence_of_found_some {s : State} {r : LehRun} {f : Nat × Nat} (h : r.found = some f) :
    (s.setSequence r).pvalid = true ∧ (s.setSequence r).lehPeriod = BitVec.ofNat 32 f.1 ∧
      (s.setSequence r).lehFirstocc = BitVec.ofNat 32 f.2 := by
  simp [h]

/-- Settles O41: the two outcomes are the two reports of the run. -/
theorem lehmerReportsFirstRepetition : Obligations.LehmerReportsFirstRepetition := by
  intro s t hM hn hmax hexec
  have hn0 : s.lehCount.toNat ≠ 0 := fun h => hn (BitVec.eq_of_toNat_eq h)
  have hrun := lehmerRun_after hM (Nat.pos_of_ne_zero hn0)
  have hlen := hrun.length
  rw [exec_lehGen_of_ok (checkLehmer_eq_ok.mpr ⟨hM, hn0, hmax⟩)] at hexec
  cases hexec
  rw [complete_pvalid, complete_lehPeriod, complete_lehFirstocc, complete_seqmem, setSequence_seqmem]
  have hreport : s.lehmerRun.Reports := lehRun_reports ..
  cases hreport with
  | distinct hfound _ hnodup =>
    obtain ⟨hpvalid, hperiod, hfirstocc⟩ := setSequence_of_found_none (s := s) hfound
    rw [hpvalid, hperiod, hfirstocc]
    refine ⟨fun _ => ⟨rfl, rfl, fun i j hji hi => ?_⟩, nofun⟩
    have hmem := nodup_map_ofNat hrun.values hnodup
    exact (List.nodup_iff_getElem?_ne_getElem?.mp hmem j i hji (by rwa [List.length_map, hlen])).symm
  | repetition i j hfound hji hi hrep hnodup =>
    obtain ⟨hpvalid, hperiod, hfirstocc⟩ := setSequence_of_found_some (s := s) hfound
    rw [hpvalid, hperiod, hfirstocc]
    have hin : i < s.lehCount.toNat := hlen ▸ hi
    have hword {k : Nat} (hk : k ≤ i) : (BitVec.ofNat 32 k).toNat = k := by
      rw [BitVec.toNat_ofNat, Nat.mod_eq_of_lt (by omega)]
    have hmem := nodup_map_ofNat (fun x hx => hrun.values x (List.mem_of_mem_take hx)) hnodup
    rw [List.map_take] at hmem
    refine ⟨nofun, fun _ => ⟨i, j, hji, hin, ?_, hword le_rfl, hword (Nat.sub_le i j), fun i' j' hj' hi' =>
      getElem?_ne_of_nodup_take hmem (by simpa using hi.le) hj' hi'⟩⟩
    rw [List.getElem?_map, List.getElem?_map, hrep]

end Sys2Proof.Machine
end

section
/-! PROOFS. Successive reads of LEH_PROGRESS while a LEH_GEN runs (rules R155, R157): O18. -/

namespace Sys2Proof.Machine

/-! ### The progress of a run -/

theorem lehProgressAfter_le {k n : Nat} (h : k ≤ n) : lehProgressAfter k n ≤ 100 :=
  Nat.div_le_of_le_mul (by omega)

theorem lehProgressAfter_mono {j k : Nat} (n : Nat) (h : j ≤ k) : lehProgressAfter j n ≤ lehProgressAfter k n :=
  Nat.div_le_div_right (Nat.mul_le_mul_left 100 h)

/-- Up to the last point of a run the host reads the progress as it is (rule R157). -/
theorem toNat_ofNat_progressAt {s : State} {p : Nat} (h : p ≤ 2 * s.lehCount.toNat + 1) :
    progressAt s p ≤ 100 ∧ (BitVec.ofNat 64 (progressAt s p)).toNat = progressAt s p := by
  have hle : progressAt s p ≤ 100 := lehProgressAfter_le (by omega)
  exact ⟨hle, by rw [BitVec.toNat_ofNat, Nat.mod_eq_of_lt (by omega)]⟩

/-! ### A read at a point of a generation -/

theorem lastPoint_of_generates {s : State} (h : generates s = true) : lastPoint s = 2 * s.lehCount.toNat + 1 := by
  have hdecode : decode s.cmd = .ok .lehGen := by
    unfold generates at h
    split at h
    · assumption
    · cases h
  rw [lastPoint, rebuildsTable_of_decode hdecode, h]
  rfl

/-- A generation of n elements is running, and the host has seen point k of it or a later one. -/
structure State.GeneratingFrom (s : State) (n k : Nat) : Prop where
  busy : s.busy = true
  generates : generates s = true
  count : s.lehCount.toNat = n
  seen_ge : k ≤ s.seen
  seen_le : s.seen ≤ lastPoint s

section Generating

variable {s : State} {n k : Nat} (h : s.GeneratingFrom n k)

include h

theorem State.GeneratingFrom.lastPoint_eq : lastPoint s = 2 * n + 1 :=
  h.count ▸ lastPoint_of_generates h.generates

/-- A read of STATUS marks a point not before the last one seen (log 9). -/
theorem State.GeneratingFrom.hostRead_status : (hostRead s 0x01).GeneratingFrom n k := by
  obtain ⟨-, hlow, hhigh⟩ := pointInFlight_bounds (Nat.zero_le _) h.seen_le
  rw [hostRead_status_of_busy h.busy]
  exact ⟨h.busy, h.generates, h.count, h.seen_ge.trans hlow, hhigh⟩

theorem hostRead_progress_of_generating :
    hostRead s 0x18 =
      { s with
        hostData := BitVec.ofNat 64 (progressAt s (pointInFlight s 1)), seen := pointInFlight s 1,
        draws := s.draws + 1 } := by
  simp [hostRead, h.busy, readBusy, h.generates]

/-- The point a read of LEH_PROGRESS shows. -/
theorem State.GeneratingFrom.pointInFlight_one :
    1 ≤ pointInFlight s 1 ∧ s.seen ≤ pointInFlight s 1 ∧ pointInFlight s 1 ≤ 2 * n + 1 := by
  have hlast := h.lastPoint_eq
  have hbounds := pointInFlight_bounds (lo := 1) (by omega) h.seen_le
  rwa [hlast] at hbounds

/-- A read of LEH_PROGRESS marks the point it shows (log 9). -/
theorem State.GeneratingFrom.hostRead_progress :
    (hostRead s 0x18).GeneratingFrom n (hostRead s 0x18).seen := by
  obtain ⟨-, -, hhigh⟩ := h.pointInFlight_one
  rw [hostRead_progress_of_generating h]
  exact ⟨h.busy, h.generates, h.count, le_rfl, hhigh.trans_eq h.lastPoint_eq.symm⟩

/-- A read of LEH_PROGRESS returns the progress at the point it marks as seen, at most 100 (rule R157). -/
theorem toNat_hostData_hostRead_progress :
    (hostRead s 0x18).hostData.toNat = lehProgressAfter (((hostRead s 0x18).seen - 1) / 2) n ∧
      (hostRead s 0x18).hostData.toNat ≤ 100 := by
  obtain ⟨-, -, hhigh⟩ := h.pointInFlight_one
  obtain rfl := h.count
  obtain ⟨hle, hnat⟩ := toNat_ofNat_progressAt hhigh
  rw [hostRead_progress_of_generating h]
  exact ⟨hnat, hnat.trans_le hle⟩

/-- It returns at least the progress at a point seen before. -/
theorem lehProgressAfter_le_hostRead_progress :
    lehProgressAfter ((k - 1) / 2) n ≤ (hostRead s 0x18).hostData.toNat := by
  obtain ⟨-, hlow, -⟩ := h.pointInFlight_one
  have hk : k ≤ (hostRead s 0x18).seen := by
    rw [hostRead_progress_of_generating h]
    exact h.seen_ge.trans hlow
  rw [(toNat_hostData_hostRead_progress h).1]
  exact lehProgressAfter_mono n (Nat.div_le_div_right (Nat.sub_le_sub_right hk 1))

end Generating

/-- Settles O18: the mark a read leaves bounds every later read from below. -/
theorem progressReadsDoNotDecrease : Obligations.ProgressReadsDoNotDecrease := by
  intro s hbusy hgenerates hseen t
  have hs : s.GeneratingFrom s.lehCount.toNat s.seen := ⟨hbusy, hgenerates, rfl, le_rfl, hseen⟩
  have ht : t.GeneratingFrom s.lehCount.toNat t.seen := hs.hostRead_progress
  have hpoint : t.seen = pointInFlight s 1 := congrArg State.seen (hostRead_progress_of_generating hs)
  obtain ⟨hvalue, hmax⟩ := toNat_hostData_hostRead_progress hs
  obtain ⟨hone, hlow, hhigh⟩ := hs.pointInFlight_one
  rw [← hpoint] at hone hlow hhigh
  exact ⟨⟨hlow, hone, hhigh, hvalue⟩, hmax, hvalue.trans_le (lehProgressAfter_le_hostRead_progress ht),
    hvalue.trans_le (lehProgressAfter_le_hostRead_progress ht.hostRead_status)⟩

end Sys2Proof.Machine
end

section
/-! PROOFS. The MD5 padding, and the MD5 commands that write no output (rules R171, R174 to R179): O42, O43, O44. -/

namespace Sys2Proof.Machine

/-! ### The padded message -/

theorem md5Zeros_lt (n : Nat) : md5Zeros n < 64 := Nat.mod_lt _ (by decide)

/-- The number of zero bytes is the residue of 55 − n also where n exceeds 55 (rule R177). -/
theorem md5Zeros_eq_emod (n : Nat) : (md5Zeros n : Int) = (55 - (n : Int)) % 64 := by
  rw [md5Zeros]
  omega

/-- The zeros end the padded message at a block boundary, the least one that leaves room for 9 bytes more. -/
theorem add_md5Zeros (n : Nat) : n + (9 + md5Zeros n) = 64 * ((n + 8) / 64 + 1) := by
  rw [md5Zeros]
  omega

section Padding

variable (msg : List Byte)

theorem length_md5Pad : (md5Pad msg).length = msg.length + (9 + md5Zeros msg.length) := by
  simp only [md5Pad, List.length_append, List.length_cons, List.length_replicate, length_toLE]
  omega

theorem take_md5Pad : (md5Pad msg).take msg.length = msg :=
  List.take_left

theorem getElem?_md5Pad_marker : (md5Pad msg)[msg.length]? = some 0x80#8 := by
  rw [md5Pad, List.getElem?_append_right le_rfl, Nat.sub_self, List.getElem?_cons_zero]

/-- After the marker come the zeros and the bit length. -/
theorem getElem?_md5Pad_tail (j : Nat) :
    (md5Pad msg)[msg.length + 1 + j]? =
      (List.replicate (md5Zeros msg.length) 0#8 ++ toLE 8 (8 * msg.length))[j]? := by
  rw [md5Pad, List.getElem?_append_right (by omega), Nat.add_assoc, Nat.add_sub_cancel_left, Nat.add_comm 1 j,
    List.getElem?_cons_succ]

theorem getElem?_md5Pad_zero {j : Nat} (h : j < md5Zeros msg.length) :
    (md5Pad msg)[msg.length + 1 + j]? = some 0#8 := by
  rw [getElem?_md5Pad_tail, List.getElem?_append_left (by rwa [List.length_replicate]),
    List.getElem?_replicate_of_lt h]

theorem getElem?_md5Pad_bitLength {k : Nat} (h : k < 8) :
    (md5Pad msg)[msg.length + 1 + (md5Zeros msg.length + k)]? = some (byteOf (8 * msg.length) k) := by
  rw [getElem?_md5Pad_tail, List.getElem?_append_right (by rw [List.length_replicate]; omega), List.length_replicate,
    Nat.add_sub_cancel_left, getElem?_toLE_eq_byteOf _ h]

end Padding

/-- Settles O44: every part of the padded message at its offset, with the length counted from the zeros. -/
theorem md5PaddingShape : Obligations.Md5PaddingShape := by
  intro msg p n
  have hlen : p.length = n + (9 + md5Zeros n) := length_md5Pad msg
  have hz : md5Zeros n < 64 := md5Zeros_lt n
  refine ⟨hlen.trans (add_md5Zeros n), take_md5Pad msg, getElem?_md5Pad_marker msg, fun k hlo hhi => ?zeros,
    fun k hk => ?bitLength, by omega, by omega, ?residue⟩
  case zeros =>
    obtain ⟨j, rfl⟩ := Nat.exists_eq_add_of_lt hlo
    have hj : j < md5Zeros n := by omega
    rw [Nat.add_right_comm]
    exact getElem?_md5Pad_zero msg hj
  case bitLength =>
    have hoff : p.length - 8 + k = n + 1 + (md5Zeros n + k) := by omega
    rw [hoff]
    exact getElem?_md5Pad_bitLength msg hk
  case residue =>
    have hzeros : p.length - n - 9 = md5Zeros n := by omega
    rw [hzeros]
    exact md5Zeros_eq_emod n

/-! ### MD5_INIT and MD5_BLOCK -/

/-- Settles O42: MD5_INIT has no check, and the registers 0x20 to 0x23 show the accumulators. -/
theorem md5InitLoadsTheStartValues : Obligations.Md5InitLoadsTheStartValues := by
  intro s
  refine ⟨{ s with md5Acc := s.params.md5Iv }.complete, rfl, rfl, ?a, ?b, ?c, ?d, fun hparams => ?default⟩
  case a | b | c | d => exact readReg_eq_lookup _ (by decide)
  case default =>
    rw [complete_md5Acc, hparams]
    rfl

theorem exec_md5Block_of_ok {s : State} {sp : Buf} {off : BitVec 16} (hcap : s.blen sp ≤ bufCap s.params sp)
    (hfit : off.toNat + 64 ≤ s.blen sp) :
    exec (.md5Block sp off) s =
      .next { s with md5Acc := md5Compress s.params s.md5Acc (s.bytesAt sp off.toNat 64) }.complete :=
  (finish_bind_of_ok (checkCapacity_eq_ok (u := ()).mpr hcap)).trans
    (finish_bind_of_ok (checkBounds_eq_ok (u := ()).mpr hfit))

/-- A message whose padding is one block has the digest of that block (rule R180). -/
theorem md5DigestAcc_of_length {p : Params} {msg : List Byte} (h : (md5Pad msg).length = 64) :
    md5DigestAcc p msg = md5Compress p p.md5Iv (md5Pad msg) := by
  rw [md5DigestAcc, h]
  exact congrArg (md5Compress p p.md5Iv) (List.take_of_length_le h.le)

/-- The padded block of abc. -/
theorem md5Pad_abc :
    md5Pad [0x61#8, 0x62#8, 0x63#8] =
      [0x61#8, 0x62#8, 0x63#8, 0x80#8] ++ List.replicate 52 0#8 ++ 0x18#8 :: List.replicate 7 0#8 := by decide

/-- Settles O43: the checks passed, and Compress on the three blocks of the spec, of which abc is its digest (O45). -/
theorem md5BlockCompressesOneBlock : Obligations.Md5BlockCompressesOneBlock := by
  refine ⟨fun s sp off hcap hfit => exec_md5Block_of_ok hcap hfit, ?zerosFromIv, ?abc, ?zerosFromZeros⟩
  case zerosFromIv | zerosFromZeros => decide +kernel
  case abc =>
    have hdigest := md5DigestWritesTheDigest.2
    rw [md5DigestAcc_of_length (by decide), md5Pad_abc] at hdigest
    exact hdigest

end Sys2Proof.Machine
end

section
/-! PROOFS. The start of the RC5 key schedule (rules R205, R206, R242): the packing of the key bytes, and the table
before the mixing: O47, O48, O49. -/

namespace Sys2Proof.Machine

/-! ### Words and their bytes -/

theorem bytes_pos (w : Width) : 0 < w.bytes := by cases w <;> decide

/-- A byte string read as a number has the bytes of the string, and zeros beyond them (rule R12). -/
theorem byteOf_fromLE (bs : List Byte) (k : Nat) : byteOf (fromLE bs) k = bs.getD k 0 := by
  by_cases hk : k < bs.length
  · rw [List.getD_eq_getElem?_getD, getElem?_eq_byteOf_fromLE hk, Option.getD_some]
  · have hge : bs.length ≤ k := Nat.not_lt.mp hk
    have hlt : fromLE bs < 2 ^ (8 * k) := by
      rw [Nat.pow_mul]
      exact (fromLE_lt bs).trans_le (Nat.pow_le_pow_right (by decide) hge)
    rw [byteOf, Nat.div_eq_of_lt hlt, List.getD_eq_default _ _ hge]
    rfl

/-- A word is determined by its bytes (rule R65). -/
theorem word_eq_of_byteOf_eq {w : Width} {v x : Word w} (h : ∀ k < w.bytes, byteOf v.toNat k = byteOf x.toNat k) :
    v = x := by
  have hbytes : wordBytes w v = wordBytes w x := by
    refine List.ext_getElem (by simp) fun k hv hx => Option.some.inj ?_
    have hk : k < w.bytes := by simpa using hv
    rw [← List.getElem?_eq_getElem, ← List.getElem?_eq_getElem, getElem?_wordBytes v hk, getElem?_wordBytes x hk,
      h k hk]
  rw [← wordOfBytes_wordBytes w v, hbytes, wordOfBytes_wordBytes]

/-! ### The packing of the key bytes -/

/-- The L table has room for every key byte (rule R205). -/
theorem le_keyWords_mul {u : Nat} (hu : 0 < u) (b : Nat) : b ≤ keyWords u b * u := by
  have hlt : b + u - 1 < keyWords u b * u + u := Nat.lt_div_mul_add hu
  omega

/-- Of the key bytes from index k on, those that belong to word q of the L table (rule R205). -/
def keyPart (u q k : Nat) (bs : List Byte) : List Byte :=
  (bs.take (q * u + u - k)).drop (q * u - k)

section KeyPart

variable {u q k : Nat} (b : Byte) (bs : List Byte)

/-- A byte inside word q is the first one of its part. -/
theorem keyPart_cons_of_inside (hlo : q * u ≤ k) (hhi : k < q * u + u) :
    keyPart u q k (b :: bs) = b :: keyPart u q (k + 1) bs := by
  have htake : q * u + u - k = q * u + u - (k + 1) + 1 := by omega
  rw [keyPart, keyPart, Nat.sub_eq_zero_of_le hlo, Nat.sub_eq_zero_of_le (Nat.le_succ_of_le hlo), htake,
    List.take_succ_cons, List.drop_zero, List.drop_zero]

/-- A byte before or after word q is no part of it. -/
theorem keyPart_cons_of_outside (h : k < q * u ∨ q * u + u ≤ k) :
    keyPart u q k (b :: bs) = keyPart u q (k + 1) bs := by
  rcases h with hlt | hge
  · have htake : q * u + u - k = q * u + u - (k + 1) + 1 := by omega
    have hdrop : q * u - k = q * u - (k + 1) + 1 := by omega
    rw [keyPart, keyPart, htake, hdrop, List.take_succ_cons, List.drop_succ_cons]
  · rw [keyPart, keyPart, Nat.sub_eq_zero_of_le hge, Nat.sub_eq_zero_of_le (Nat.le_succ_of_le hge), List.take_zero,
      List.take_zero, List.drop_nil, List.drop_nil]

/-- After the first byte of the part at least one more byte fits word q. -/
theorem length_keyPart_succ_lt (hlo : q * u ≤ k) (hhi : k < q * u + u) : (keyPart u q (k + 1) bs).length < u := by
  rw [keyPart, List.length_drop, List.length_take]
  omega

end KeyPart

/-- At most u bytes fit a word (rule R65). -/
theorem fromLE_lt_two_pow_bits {w : Width} {bs : List Byte} (h : bs.length ≤ w.bytes) : fromLE bs < 2 ^ w.bits := by
  have hpow : 256 ^ w.bytes = 2 ^ w.bits := by cases w <;> rfl
  rw [← hpow]
  exact (fromLE_lt bs).trans_le (Nat.pow_le_pow_right (by decide) h)

/-- A rotate by 8 of a word whose highest byte is 0 makes room for one more byte below (rule R205). -/
theorem addW_rotlW_wordOfBytes {w : Width} (b : Byte) {bs : List Byte} (h : bs.length < w.bytes) :
    addW (rotlW (wordOfBytes w bs) 8) (b.setWidth w.bits) = wordOfBytes w (b :: bs) := by
  have hhigh : fromLE bs < 2 ^ (w.bits - 8) := by
    have hpow : 256 ^ (w.bytes - 1) = 2 ^ (w.bits - 8) := by cases w <;> rfl
    rw [← hpow]
    exact (fromLE_lt bs).trans_le (Nat.pow_le_pow_right (by decide) (Nat.le_sub_one_of_lt h))
  have hmod : 8 % w.bits = 8 := by cases w <;> rfl
  have hrot : (rotlW (wordOfBytes w bs) 8).toNat = fromLE bs * 256 % 2 ^ w.bits := by
    rw [toNat_rotlW (bits_pos w), wordOfBytes, BitVec.toNat_ofNat, Nat.mod_eq_of_lt (fromLE_lt_two_pow_bits h.le),
      rotlSpec, hmod, if_neg (by decide), Nat.div_eq_of_lt hhigh]
    rfl
  apply BitVec.eq_of_toNat_eq
  rw [addW, BitVec.toNat_add, hrot, BitVec.toNat_setWidth, ← Nat.add_mod, wordOfBytes, BitVec.toNat_ofNat, fromLE,
    Nat.mul_comm, Nat.add_comm]

/-- Byte k of a word of at most u bytes is byte k of the string, and 0 beyond it (rules R65, R205). -/
theorem byteOf_wordOfBytes {w : Width} {bs : List Byte} (h : bs.length ≤ w.bytes) (k : Nat) :
    byteOf (wordOfBytes w bs).toNat k = bs.getD k 0 := by
  rw [wordOfBytes, BitVec.toNat_ofNat, Nat.mod_eq_of_lt (fromLE_lt_two_pow_bits h), byteOf_fromLE]

/-- With the bytes from index k on packed, word q of the L table is the number of its part of them (rule R205). -/
theorem getElem?_packFrom {w : Width} {c k q : Nat} {bs : List Byte} (hfit : k + bs.length ≤ c * w.bytes) (hq : q < c) :
    (packFrom w.bytes (List.replicate c 0) k bs : List (Word w))[q]? =
      some (wordOfBytes w (keyPart w.bytes q k bs)) := by
  induction bs generalizing k with
  | nil => simp [packFrom, keyPart, wordOfBytes, fromLE, hq]
  | cons b bs ih =>
    rw [List.length_cons] at hfit
    have hrest := ih (k := k + 1) (by omega)
    have hu := bytes_pos w
    have hinside := Nat.div_eq_iff (x := k) (y := q) hu
    rw [packFrom, packByte]
    by_cases hword : k / w.bytes = q
    · obtain ⟨hlo, hhi⟩ := hinside.mp hword
      have hhi : k < q * w.bytes + w.bytes := by omega
      rw [hword, List.getElem?_set_self (by simpa using hq), List.getD_eq_getElem?_getD, hrest, Option.getD_some,
        addW_rotlW_wordOfBytes b (length_keyPart_succ_lt bs hlo hhi), keyPart_cons_of_inside b bs hlo hhi]
    · have houtside : k < q * w.bytes ∨ q * w.bytes + w.bytes ≤ k := by omega
      rw [List.getElem?_set_ne hword, hrest, keyPart_cons_of_outside b bs houtside]

/-- Word q of the L table is the number of the key bytes q·u to q·u + u − 1 (rule R205). -/
theorem getElem?_packKey {w : Width} {key : List Byte} {q : Nat} (hq : q < keyWords w.bytes key.length) :
    (packKey w.bytes key : List (Word w))[q]? =
      some (wordOfBytes w ((key.drop (q * w.bytes)).take w.bytes)) := by
  have hfit : 0 + key.length ≤ keyWords w.bytes key.length * w.bytes := by
    rw [Nat.zero_add]
    exact le_keyWords_mul (bytes_pos w) key.length
  rw [packKey, getElem?_packFrom hfit hq, keyPart, Nat.sub_zero, Nat.sub_zero, List.drop_take, Nat.add_sub_cancel_left]

/-- Settles O47: each word is the number of its part of the key, whose bytes are the key's. -/
theorem keyPacksLittleEndian : Obligations.KeyPacksLittleEndian := by
  intro w key _
  refine ⟨length_packKey w.bytes key, fun q hq => ⟨_, getElem?_packKey hq, fun k hk => ?_⟩⟩
  rw [byteOf_wordOfBytes (List.length_take_le _ _), List.getD_eq_getElem?_getD, List.getElem?_take_of_lt hk,
    List.getElem?_drop, List.getD_eq_getElem?_getD]

/-! ### Keys with trailing zero bytes -/

/-- Zero bytes that still fit the last key word need no word more (rule R242). -/
theorem keyWords_append_zeros {u k : Nat} {key : List Byte} (hu : 0 < u)
    (hk : key.length + k ≤ keyWords u key.length * u) :
    keyWords u (key ++ List.replicate k 0#8).length = keyWords u key.length := by
  have hle : keyWords u key.length * u ≤ key.length + u - 1 := Nat.div_mul_le_self _ _
  rw [List.length_append, List.length_replicate]
  exact (Nat.div_eq_iff hu).mpr (by omega)

/-- Zero bytes after the key read as the zeros that fill the last word. -/
theorem getD_append_replicate_zero (key : List Byte) (k i : Nat) :
    (key ++ List.replicate k 0#8).getD i 0 = key.getD i 0 := by
  simp only [List.getD_eq_getElem?_getD, List.getElem?_append, List.getElem?_replicate]
  by_cases hi : i < key.length
  · rw [if_pos hi]
  · rw [if_neg hi, List.getElem?_eq_none (Nat.not_lt.mp hi)]
    split <;> rfl

/-- The L table of a key with zero bytes that fit its last word is that of the key: both have the same number of words,
and their bytes agree (rule R242). -/
theorem packKey_append_zeros {w : Width} {key : List Byte} {k : Nat} (hkey : key ≠ [])
    (hk : key.length + k ≤ keyWords w.bytes key.length * w.bytes) :
    (packKey w.bytes (key ++ List.replicate k 0#8) : List (Word w)) = packKey w.bytes key := by
  have hlong : key ++ List.replicate k 0#8 ≠ [] := List.append_ne_nil_of_left_ne_nil hkey _
  have hwords := keyWords_append_zeros (bytes_pos w) hk
  obtain ⟨-, hword⟩ := keyPacksLittleEndian w key hkey
  obtain ⟨-, hword'⟩ := keyPacksLittleEndian w _ hlong
  refine List.ext_getElem? fun q => ?_
  by_cases hq : q < keyWords w.bytes key.length
  · obtain ⟨v, hv, hbytes⟩ := hword q hq
    obtain ⟨v', hv', hbytes'⟩ := hword' q (hq.trans_eq hwords.symm)
    rw [hv, hv']
    refine congrArg some (word_eq_of_byteOf_eq fun i hi => ?_)
    rw [hbytes i hi, hbytes' i hi, getD_append_replicate_zero]
  · have hout := Nat.not_lt.mp hq
    rw [List.getElem?_eq_none (by rwa [length_packKey, hwords]), List.getElem?_eq_none (by rwa [length_packKey])]

/-- Settles O49: nothing after the L table depends on the key bytes, only on their number of words. -/
theorem zeroExtendedKeysShareTheTable : Obligations.ZeroExtendedKeysShareTheTable := by
  intro p w r k key hkey hk
  rw [expandKey, expandKeyWith, keyWords_append_zeros (bytes_pos w) hk, packKey_append_zeros hkey hk, expandKey,
    expandKeyWith]

/-! ### The table before the mixing -/

/-- Entry i of the arithmetic sequence from p on with the difference q (rule R206). -/
theorem getElem?_initTable {n : Nat} (q p : BitVec n) {t i : Nat} (hi : i < t) :
    (initTable q t p)[i]? = some (BitVec.ofNat n (p.toNat + i * q.toNat)) := by
  induction t generalizing p i with
  | zero => omega
  | succ t ih =>
    cases i with
    | zero => simp [initTable]
    | succ i =>
      rw [initTable, List.getElem?_cons_succ, ih (addW p q) (Nat.lt_of_succ_lt_succ hi), addW]
      refine congrArg some (BitVec.eq_of_toNat_eq ?_)
      rw [BitVec.toNat_ofNat, BitVec.toNat_ofNat, BitVec.toNat_add, Nat.mod_add_mod, Nat.succ_mul, Nat.add_assoc,
        Nat.add_comm q.toNat]

/-- Settles O48. -/
theorem initialTableIsArithmetic : Obligations.InitialTableIsArithmetic :=
  ⟨fun p w _ _ hq => getElem?_initTable (p.rc5Q w) (p.rc5P w) hq, by decide, by decide, by decide⟩

end Sys2Proof.Machine
end

section
/-! PROOFS. EncBlock and DecBlock undo each other (rules R210, R211), and so do the commands on a block in place (rules
R212, R213): O51, O53. -/

namespace Sys2Proof.Machine

/-! ### One round, and all rounds -/

section Rounds

variable {n : Nat} (hn : 0 < n) (S : List (BitVec n))

include hn

theorem decRound_encRound (i : Nat) (p : BitVec n × BitVec n) : decRound S i (encRound S i p) = p := by
  simp only [decRound, encRound, addW, subW, BitVec.add_sub_cancel, rotrW_rotlW _ hn, xorW_xorW_cancel]

theorem encRound_decRound (i : Nat) (p : BitVec n × BitVec n) : encRound S i (decRound S i p) = p := by
  simp only [decRound, encRound, xorW_xorW_cancel, rotlW_rotrW _ hn, addW, subW, BitVec.sub_add_cancel]

theorem decRounds_encRounds (r : Nat) (p : BitVec n × BitVec n) : decRounds S r (encRounds S r p) = p := by
  induction r with
  | zero => rfl
  | succ r ih => rw [encRounds, decRounds, decRound_encRound hn, ih]

theorem encRounds_decRounds (r : Nat) (p : BitVec n × BitVec n) : encRounds S r (decRounds S r p) = p := by
  induction r generalizing p with
  | zero => rfl
  | succ r ih => rw [encRounds, decRounds, ih, encRound_decRound hn]

/-- DecBlock undoes EncBlock (rule R211). -/
theorem decBlock_encBlock (r : Nat) (p : BitVec n × BitVec n) : decBlock S r (encBlock S r p) = p := by
  simp only [decBlock, encBlock, decRounds_encRounds hn, addW, subW, BitVec.add_sub_cancel]

/-- EncBlock undoes DecBlock (rule R211). -/
theorem encBlock_decBlock (r : Nat) (p : BitVec n × BitVec n) : encBlock S r (decBlock S r p) = p := by
  simp only [decBlock, encBlock, addW, subW, BitVec.sub_add_cancel, encRounds_decRounds hn]

end Rounds

/-- One half of a round on naturals: an exclusive or, a rotate by the other word, an addition (rule R210). -/
theorem toNat_halfRound (w : Width) (a b k : Word w) :
    (addW (rotlW (xorW a b) b.toNat) k).toNat =
      (rotlSpec w.bits (a.toNat ^^^ b.toNat) b.toNat + k.toNat) % 2 ^ w.bits := by
  rw [addW, BitVec.toNat_add, toNat_rotlW (bits_pos w), xorW, BitVec.toNat_xor]

/-- Settles O51: a round more is one round after the others, and each half of a round is undone by its inverses. -/
theorem blockDecodeInvertsBlockEncode : Obligations.BlockDecodeInvertsBlockEncode := by
  refine ⟨fun w S r p => ⟨BitVec.toNat_add _ _, BitVec.toNat_add _ _, ?round, decBlock_encBlock (bits_pos w) S r p,
    encBlock_decBlock (bits_pos w) S r p⟩, by decide⟩
  case round => exact ⟨toNat_halfRound w .., toNat_halfRound w ..⟩

/-! ### The block commands one after the other -/

/-- The two words of the block at an offset (rule R212). -/
def State.blockAt (w : Width) (sp : Buf) (a : Nat) (s : State) : Word w × Word w :=
  (s.wordAt w sp a, s.wordAt w sp (a + w.bytes))

theorem blockInPlace_eq (w : Width) (f : Word w × Word w → Word w × Word w) (sp : Buf) (a : Nat) (s : State) :
    s.blockInPlace w f sp a = s.writeBytes sp a (blockBytes w (f (s.blockAt w sp a))) := rfl

/-- A block that is written where it was read leaves its bytes as they were read (rules R65, R71). -/
theorem memGet_writeBytes_blockAt {w : Width} (s t : State) {sp : Buf} {a k : Nat} (hk : k < 2 * w.bytes) :
    memGet ((t.writeBytes sp a (blockBytes w (s.blockAt w sp a))).complete.buf sp) (a + k) =
      some (s.byteAt sp (a + k)) := by
  rw [blockBytes, memGet_writeBytes_block]
  by_cases hfirst : k < w.bytes
  · rw [if_pos (by omega), Nat.add_sub_cancel_left, State.blockAt, byteOf_wordAt _ _ _ hfirst]
  · have hsecond : a + k - (a + w.bytes) < w.bytes := by omega
    have hoff : a + w.bytes + (a + k - (a + w.bytes)) = a + k := by omega
    rw [if_neg (by omega), if_pos (by omega), State.blockAt, byteOf_wordAt _ _ _ hsecond, hoff]

section NextCommand

variable (w : Width) (s : State) (c : BitVec 32) (sp : Buf) (a : Nat)

/-- A block written by one command is what the next one reads (rules R65, R71). -/
theorem blockAt_accept_writeBytes (p : Word w × Word w) :
    ((s.writeBytes sp a (blockBytes w p)).complete.accept c).blockAt w sp a = p := by
  have hread := memGet_writeBytes_block s sp a p
  have hbyte {x : Nat} {b : Byte} (h : memGet ((s.writeBytes sp a (blockBytes w p)).complete.buf sp) x = some b) :
      ((s.writeBytes sp a (blockBytes w p)).complete.accept c).byteAt sp x = b :=
    byteAt_of_written (by rwa [accept_buf])
  refine Prod.ext (word_eq_of_byteOf_eq fun k hk => ?_) (word_eq_of_byteOf_eq fun k hk => ?_)
  · refine (byteOf_wordAt _ _ _ hk).trans (hbyte ?_)
    rw [blockBytes, hread, if_pos (by omega), Nat.add_sub_cancel_left]
  · refine (byteOf_wordAt _ _ _ hk).trans (hbyte ?_)
    rw [blockBytes, hread, if_neg (by omega), if_pos (by omega), Nat.add_sub_cancel_left]

variable (bs : List Byte)

/-- Bytes written into a space leave what the block commands check. -/
theorem checkBlock_accept_writeBytes (sq : Buf) (off : Nat) :
    checkBlock ((s.writeBytes sp a bs).complete.accept c) sq off = checkBlock s sq off := by
  cases sp <;> rfl

/-- Bytes written into a space leave the key table (rule R214). -/
theorem tableWords_accept_writeBytes :
    ((s.writeBytes sp a bs).complete.accept c).tableWords w = s.tableWords w := by
  cases sp <;> rfl

theorem cfgRounds_accept_writeBytes : ((s.writeBytes sp a bs).complete.accept c).cfgRounds = s.cfgRounds :=
  setBuf_cfgRounds ..

theorem err_accept_writeBytes : ((s.writeBytes sp a bs).complete.accept c).err = s.err :=
  setBuf_err ..

end NextCommand

/-- Settles O53: RC5_DECBLK finds the same table and the encoded words, and writes the words that were there before. -/
theorem decblkRestoresWhatEncblkWrote : Obligations.DecblkRestoresWhatEncblkWrote := by
  intro w s u sp off c hw hr hcap hk hfit hu
  have hcheck : checkBlock s sp off.toNat = .ok w := checkBlock_eq_ok.mpr ⟨hw, hr, hcap, hk, hfit⟩
  rw [exec_rc5Encblk_of_ok hcheck, blockInPlace_eq] at hu
  cases hu
  refine ⟨_, exec_rc5Decblk_of_ok ((checkBlock_accept_writeBytes ..).trans hcheck), rfl, ?err, fun k hk => ?bytes⟩
  case err =>
    rw [blockInPlace_eq, complete_err, State.writeBytes, setBuf_err, err_accept_writeBytes]
  case bytes =>
    rw [blockInPlace_eq, blockAt_accept_writeBytes, tableWords_accept_writeBytes, cfgRounds_accept_writeBytes,
      decBlock_encBlock (bits_pos w), memGet_writeBytes_blockAt _ _ hk]

end Sys2Proof.Machine
end

section
/-! PROOFS. The first failing check of the RC5 commands (rules R200, R204, R209, R212, R213, R232, R236, R238, R239):
O26, O27. -/

namespace Sys2Proof.Machine

/-! ### Each check that fails -/

section Failures

variable {s : State} {w : Width}

theorem checkCipherConfig_of_rounds_zero (hw : s.configured w) (hr : s.cfgRounds = 0) :
    checkCipherConfig s = .error ⟨.configuration, 2⟩ := by
  rw [checkCipherConfig, checkWidth_eq_ok.mpr hw]
  exact if_pos hr

theorem checkKey_of_zero (h : s.keylen.toNat = 0) : checkKey s = .error ⟨.length, 1⟩ :=
  if_pos h

theorem checkKey_of_gt (h : s.params.keyMax < s.keylen.toNat) : checkKey s = .error ⟨.length, 2⟩ := by
  rw [checkKey, if_neg (Nat.ne_zero_of_lt h), if_pos h]

theorem checkIv_of_lt (h : s.params.ivValueBytes * s.cfgKlb.toNat < 2 * w.bytes) :
    checkIv w s = .error ⟨.configuration, 4⟩ :=
  if_pos h

theorem checkIv_of_le (h : 2 * w.bytes ≤ s.params.ivValueBytes * s.cfgKlb.toNat) : checkIv w s = .ok () :=
  if_neg (Nat.not_lt.mpr h)

theorem checkTable_of_invalid (h : s.kvalid = false) : checkTable s = .error ⟨.keyTableInvalid, 0⟩ := by
  rw [checkTable, h]
  rfl

theorem checkCiphertext_of_lt {bb n : Nat} (h : n < bb) : checkCiphertext bb n = .error ⟨.bufferTooShort, 0⟩ :=
  if_pos h

/-- The detail is the offset of the block that is not whole (rule R239). -/
theorem checkCiphertext_of_ragged {bb n : Nat} (hle : bb ≤ n) (h : n % bb ≠ 0) :
    checkCiphertext bb n = .error ⟨.bufferTooShort, BitVec.ofNat 32 (n / bb * bb)⟩ := by
  rw [checkCiphertext, if_neg (Nat.not_lt.mpr hle), if_pos h]

end Failures

/-! ### A failing check ends the command -/

section Commands

variable {s : State} {w : Width} {e : Trap}

theorem exec_rc5Expand_of_error (h : checkExpand s = .error e) :
    exec .rc5Expand s = .next (s.failed e.err.code e.info) :=
  finish_bind_of_error h

theorem exec_rc5Encode_of_error (h : checkEncode s = .error e) :
    exec .rc5Encode s = .next (s.failed e.err.code e.info) :=
  finish_bind_of_error h

theorem exec_rc5Decode_of_error (h : checkDecode s = .error e) :
    exec .rc5Decode s = .next (s.failed e.err.code e.info) := by
  rw [exec, execRc5Decode, h]
  rfl

theorem exec_block_of_error {sp : Buf} {off : BitVec 16} (h : checkBlock s sp off.toNat = .error e) :
    ∀ i ∈ [Instr.rc5Encblk sp off, .rc5Decblk sp off], exec i s = .next (s.failed e.err.code e.info) := by
  simp only [List.forall_mem_cons]
  exact ⟨finish_bind_of_error h, finish_bind_of_error h, nofun⟩

/-- The cipher configuration is the first check of the three commands that build a table (rules R209, R236, R238). -/
theorem exec_of_config_error (h : checkCipherConfig s = .error e) :
    ∀ i ∈ [Instr.rc5Expand, .rc5Encode, .rc5Decode], exec i s = .next (s.failed e.err.code e.info) := by
  have hexpand : checkExpand s = .error e := by rw [checkExpand, h]
  have hencode : checkEncode s = .error e := by rw [checkEncode, h, error_bind]
  have hdecode : checkDecode s = .error e := by rw [checkDecode, h, error_bind]
  simp only [List.forall_mem_cons]
  exact ⟨exec_rc5Expand_of_error hexpand, exec_rc5Encode_of_error hencode, exec_rc5Decode_of_error hdecode, nofun⟩

section Configured

variable (hconfig : checkCipherConfig s = .ok w)

include hconfig

/-- The key is the next check, for RC5_ENCODE after the length of the IV (rules R209, R236, R238). -/
theorem exec_of_key_error (h : checkKey s = .error e) :
    ∀ i ∈ [Instr.rc5Expand, .rc5Encode, .rc5Decode],
      (i = .rc5Encode → checkIv w s = .ok ()) → exec i s = .next (s.failed e.err.code e.info) := by
  have hexpand : checkExpand s = .error e := by rw [checkExpand, hconfig, h]
  have hencode (hiv : checkIv w s = .ok ()) : checkEncode s = .error e := by
    rw [checkEncode, hconfig, ok_bind, hiv, ok_bind, h, error_bind]
  have hdecode : checkDecode s = .error e := by rw [checkDecode, hconfig, ok_bind, h, error_bind]
  intro i hi hiv
  simp only [List.mem_cons, List.not_mem_nil, or_false] at hi
  rcases hi with rfl | rfl | rfl
  · exact exec_rc5Expand_of_error hexpand
  · exact exec_rc5Encode_of_error (hencode (hiv rfl))
  · exact exec_rc5Decode_of_error hdecode

/-- The capacity of INMEM is the check after the key, for the message commands (rules R236, R238). -/
theorem exec_of_capacity_error (hkey : checkKey s = .ok ()) (h : checkCapacity s .inmem = .error e) :
    ∀ i ∈ [Instr.rc5Expand, .rc5Encode, .rc5Decode],
      (i = .rc5Encode → checkIv w s = .ok ()) → i ≠ .rc5Expand → exec i s = .next (s.failed e.err.code e.info) := by
  have hencode (hiv : checkIv w s = .ok ()) : checkEncode s = .error e := by
    rw [checkEncode, hconfig, ok_bind, hiv, ok_bind, hkey, ok_bind, h, error_bind]
  have hdecode : checkDecode s = .error e := by
    rw [checkDecode, hconfig, ok_bind, hkey, ok_bind, h, error_bind]
  intro i hi hiv hne
  simp only [List.mem_cons, List.not_mem_nil, or_false] at hi
  rcases hi with rfl | rfl | rfl
  · exact absurd rfl hne
  · exact exec_rc5Encode_of_error (hencode (hiv rfl))
  · exact exec_rc5Decode_of_error hdecode

/-- The ciphertext is the last check of RC5_DECODE (rules R238, R239). -/
theorem exec_rc5Decode_of_ciphertext_error (hkey : checkKey s = .ok ()) (hcap : checkCapacity s .inmem = .ok ())
    (h : checkCiphertext w.blockBytes s.inlen.toNat = .error e) :
    exec .rc5Decode s = .next (s.failed e.err.code e.info) := by
  have hdecode : checkDecode s = .error e := by
    rw [checkDecode, hconfig, ok_bind, hkey, ok_bind, hcap, ok_bind, h, error_bind]
  exact exec_rc5Decode_of_error hdecode

end Configured

end Commands

/-- Settles O26: the checks are passed one by one up to the one that fails. -/
theorem rc5CommandsCheckConfigurationAndKey : Obligations.Rc5CommandsCheckConfigurationAndKey := by
  intro s
  refine ⟨fun h => exec_of_config_error (checkCipherConfig_of_unsupported h),
    fun w hw => ⟨fun hr => exec_of_config_error (checkCipherConfig_of_rounds_zero hw hr), fun hr => ?configured⟩⟩
  have hconfig : checkCipherConfig s = .ok w := checkCipherConfig_eq_ok.mpr ⟨hw, hr⟩
  refine ⟨fun hiv => ?iv, fun i hi hiv => ?checks⟩
  case iv =>
    have hencode : checkEncode s = .error ⟨.configuration, 4⟩ := by
      rw [checkEncode, hconfig, ok_bind, checkIv_of_lt hiv, error_bind]
    exact exec_rc5Encode_of_error hencode
  case checks =>
    have hiv (h : i = .rc5Encode) : checkIv w s = .ok () := checkIv_of_le (hiv h)
    refine ⟨fun hk => exec_of_key_error hconfig (checkKey_of_zero hk) i hi hiv,
      fun hk => exec_of_key_error hconfig (checkKey_of_gt hk) i hi hiv, fun hk hmax hne => ?input⟩
    have hkey : checkKey s = .ok () := checkKey_eq_ok.mpr ⟨hk, hmax⟩
    refine ⟨fun hin => exec_of_capacity_error hconfig hkey (checkCapacity_of_gt hin) i hi hiv hne, fun hin hdec => ?_⟩
    subst hdec
    have hcap := checkCapacity_inmem hin
    exact ⟨fun h => exec_rc5Decode_of_ciphertext_error hconfig hkey hcap (checkCiphertext_of_lt h),
      fun hle h => exec_rc5Decode_of_ciphertext_error hconfig hkey hcap (checkCiphertext_of_ragged hle h)⟩

/-- Settles O27: both commands make the checks of `checkBlock`, which are passed one by one up to the one that fails. -/
theorem blockCommandsCheckInOrder : Obligations.BlockCommandsCheckInOrder := by
  intro s sp off cause i hi
  refine ⟨fun h => exec_rc5_of_unsupported h sp off i (List.mem_cons_of_mem _ (List.mem_append_left _ hi)),
    fun w hw => ⟨fun hr => ?rounds, fun hr => ?configured⟩⟩
  case rounds =>
    have hrounds : checkBlock s sp off.toNat = .error ⟨.configuration, 2⟩ := by
      rw [checkBlock, checkCipherConfig_of_rounds_zero hw hr, error_bind]
    exact exec_block_of_error hrounds i hi
  case configured =>
    have hconfig : checkCipherConfig s = .ok w := checkCipherConfig_eq_ok.mpr ⟨hw, hr⟩
    refine ⟨fun hlen => ?capacity, fun hcap => ⟨fun hk => ?table, fun hk hfit => ?bounds⟩⟩
    case capacity =>
      have hcapacity : checkBlock s sp off.toNat = .error ⟨.length, lengthCause sp⟩ := by
        rw [checkBlock, hconfig, ok_bind, checkCapacity_of_gt hlen, error_bind]
      have hcause : cause = lengthCause sp := by cases sp <;> rfl
      rw [hcause]
      exact exec_block_of_error hcapacity i hi
    all_goals have hcap : checkCapacity s sp = .ok () := checkCapacity_eq_ok.mpr hcap
    case table =>
      have htable : checkBlock s sp off.toNat = .error ⟨.keyTableInvalid, 0⟩ := by
        rw [checkBlock, hconfig, ok_bind, hcap, ok_bind, checkTable_of_invalid hk, error_bind]
      exact exec_block_of_error htable i hi
    case bounds =>
      have htable : checkTable s = .ok () := checkTable_eq_ok.mpr hk
      have hbounds : checkBlock s sp off.toNat = .error ⟨.bufferTooShort, off.setWidth 32⟩ := by
        rw [checkBlock, hconfig, ok_bind, hcap, ok_bind, htable, ok_bind, blockBytes_eq, checkBounds_of_gt hfit,
          error_bind]
      exact exec_block_of_error hbounds i hi

end Sys2Proof.Machine
end

section
/-! PROOFS. RC5_DECODE undoes RC5_ENCODE (rules R230, R234, R238, R241): O59. -/

namespace Sys2Proof.Machine

/-! ### A block of bytes and its words -/

section Blocks

variable {w : Width}

/-- The bytes of the word of u bytes are those bytes (rule R65). -/
theorem wordBytes_wordOfBytes {bs : List Byte} (h : bs.length = w.bytes) : wordBytes w (wordOfBytes w bs) = bs := by
  refine List.ext_getElem? fun k => ?_
  by_cases hk : k < w.bytes
  · rw [getElem?_wordBytes _ hk, toNat_wordOfBytes h, getElem?_eq_byteOf_fromLE (h ▸ hk)]
  · rw [List.getElem?_eq_none (by simpa using hk), List.getElem?_eq_none (h ▸ Nat.not_lt.mp hk)]

theorem blockBytes_blockWords {x : List Byte} (h : x.length = w.blockBytes) : blockBytes w (blockWords w x) = x := by
  rw [blockBytes_eq] at h
  have hfirst : (x.take w.bytes).length = w.bytes := List.length_take_of_le (by omega)
  have hsecond : (x.drop w.bytes).length = w.bytes := by
    rw [List.length_drop]
    omega
  rw [blockBytes, blockWords, wordBytes_wordOfBytes hfirst, wordBytes_wordOfBytes hsecond, List.take_append_drop]

theorem blockWords_blockBytes (p : Word w × Word w) : blockWords w (blockBytes w p) = p := by
  rw [blockWords, blockBytes, List.take_left' (length_wordBytes ..), List.drop_left' (length_wordBytes ..),
    wordOfBytes_wordBytes, wordOfBytes_wordBytes]

/-- DecBlock undoes EncBlock on the bytes of a block (rule R211). -/
theorem decBytes_encBytes (S : List (Word w)) (r : Nat) {x : List Byte} (h : x.length = w.blockBytes) :
    decBytes w S r (encBytes w S r x) = x := by
  rw [decBytes, encBytes, blockWords_blockBytes, decBlock_encBlock (bits_pos w), blockBytes_blockWords h]

end Blocks

/-! ### The chain -/

theorem xorBytes_xorBytes_cancel {x y : List Byte} (h : x.length = y.length) : xorBytes (xorBytes x y) y = x := by
  induction x generalizing y with
  | nil => rfl
  | cons a x ih =>
    cases y with
    | nil => cases h
    | cons b y =>
      have htail : xorBytes (xorBytes x y) y = x := ih (Nat.succ.inj h)
      simp only [xorBytes, List.zipWith_cons_cons, xorW_xorW_cancel] at htail ⊢
      rw [htail]

/-- The blocks of a string of whole blocks make it up (rule R78). -/
theorem flatten_blocksOf {bb m : Nat} {x : List Byte} (h : x.length = m * bb) : (blocksOf bb m x).flatten = x := by
  induction m generalizing x with
  | zero => exact (List.eq_nil_of_length_eq_zero (by simpa using h)).symm
  | succ m ih =>
    rw [Nat.succ_mul] at h
    have hrest : (x.drop bb).length = m * bb := by
      rw [List.length_drop]
      omega
    rw [blocksOf, List.flatten_cons, ih hrest, List.take_append_drop]

section Chain

variable {enc dec : List Byte → List Byte} {bb : Nat} (henc : ∀ x, (enc x).length = bb)
  (hdec : ∀ x, x.length = bb → dec (enc x) = x)

include henc hdec

/-- The decode chain of the encode chain's output gives the blocks back: both feed the encoded block forward (rules
R234, R238). -/
theorem chainDec_chainEnc {prev : List Byte} {xs : List (List Byte)} (hprev : prev.length = bb)
    (hxs : ∀ x ∈ xs, x.length = bb) :
    chainDec dec prev (blocksOf bb xs.length (chainEnc enc prev xs)) = xs.flatten := by
  induction xs generalizing prev with
  | nil => rfl
  | cons x xs ih =>
    obtain ⟨hx, hxs⟩ := List.forall_mem_cons.mp hxs
    have hxor : (xorBytes x prev).length = bb := by
      rw [xorBytes, List.length_zipWith, hx, hprev, Nat.min_self]
    rw [chainEnc, List.length_cons, blocksOf, List.take_left' (henc _), List.drop_left' (henc _), chainDec, hdec _ hxor,
      xorBytes_xorBytes_cancel (hx.trans hprev.symm), ih (henc _) hxs, List.flatten_cons]

/-- A message of whole blocks is recovered from its encoding; the first block gives the IV (rules R234, R238). -/
theorem decodeMsg_encodeMsg (hbb : 0 < bb) {iv pp : List Byte} (hiv : iv.length = bb) (hpp : bb ∣ pp.length) :
    decodeMsg dec bb (encodeMsg enc bb iv pp) = pp := by
  have hwhole : pp.length = pp.length / bb * bb := (Nat.div_mul_cancel hpp).symm
  have hcount : (encodeMsg enc bb iv pp).length / bb - 1 = (blocksOf bb (pp.length / bb) pp).length := by
    rw [length_encodeMsg henc, Nat.mul_div_cancel_left _ hbb, Nat.add_sub_cancel, length_blocksOf]
  rw [decodeMsg, hcount, encodeMsg, List.take_left' (henc iv), List.drop_left' (henc iv), hdec iv hiv,
    chainDec_chainEnc henc hdec hiv fun x => length_of_mem_blocksOf hwhole.ge, flatten_blocksOf hwhole]

end Chain

/-! ### The padding and the IV -/

/-- Stripping undoes the padding: its last byte is the number of its bytes (rules R230, R240). -/
theorem stripPadding_pad7 {bb : Nat} (hbb : 0 < bb) (hmax : bb < 256) (msg : List Byte) :
    stripPadding (pad7 bb msg) = .ok msg := by
  have hmod := Nat.mod_lt msg.length hbb
  let p := bb - msg.length % bb
  have hp : (BitVec.ofNat 8 p).toNat = p := Nat.mod_eq_of_lt (by omega)
  have hlen : (pad7 bb msg).length = msg.length + p := by rw [pad7, List.length_append, List.length_replicate]
  have hlast : (pad7 bb msg).getLast? = some (BitVec.ofNat 8 p) := by
    rw [pad7, List.getLast?_append, List.getLast?_replicate, if_neg (by omega)]
    rfl
  rw [stripPadding_of_le hlast (by omega), hp, hlen, Nat.add_sub_cancel, pad7, List.take_left]

theorem length_ivBytes (p : Params) (k x : Nat) : (ivBytes p k x).length = p.ivValueBytes * k := by
  induction k generalizing x with
  | zero => rfl
  | succ k ih => rw [ivBytes, List.length_append, length_toLE, ih, Nat.mul_succ, Nat.add_comm]

/-- The IV is a whole block under the check of rule R232. -/
theorem length_deriveIV {p : Params} {klb bb : Nat} (h : bb ≤ p.ivValueBytes * klb) :
    (deriveIV p klb bb).length = bb := by
  rw [deriveIV, List.length_take, length_ivBytes, Nat.min_eq_left h]

/-! ### The two commands -/

/-- A byte that is written is read alike in two states whose space is the same, whatever their draws (rule R74). -/
theorem byteAt_eq_of_written {s t : State} {sp : Buf} {a : Nat} (hbuf : t.buf sp = s.buf sp)
    (h : memGet (s.buf sp) a ≠ none) : t.byteAt sp a = s.byteAt sp a := by
  obtain ⟨b, hb⟩ := Option.ne_none_iff_exists'.mp h
  rw [byteAt_of_written hb, byteAt_of_written (hbuf ▸ hb)]

/-- A written key is the same at both commands (rule R74). -/
theorem keyBytes_eq_of_written {s t : State} (hlen : t.keylen = s.keylen) (hmem : t.keymem = s.keymem)
    (h : ∀ a, a < s.keylen.toNat → memGet s.keymem a ≠ none) : t.keyBytes = s.keyBytes := by
  rw [State.keyBytes, State.keyBytes, hlen]
  refine List.map_congr_left fun j hj => byteAt_eq_of_written hmem ?_
  rw [Nat.zero_add]
  exact h j (List.mem_range.mp hj)

/-- Bytes that a space lists are what is read there (rule R74). -/
theorem bytesAt_eq_of_written {s : State} {sp : Buf} {a k : Nat} {bs : List Byte} (hlen : bs.length = k)
    (h : ∀ j < k, memGet (s.buf sp) (a + j) = bs[j]?) : s.bytesAt sp a k = bs := by
  refine List.ext_getElem (by rw [length_bytesAt, hlen]) fun j hj hj' => Option.some.inj ?_
  rw [length_bytesAt] at hj
  rw [← List.getElem?_eq_getElem, getElem?_bytesAt s sp a k j hj, ← List.getElem?_eq_getElem hj',
    byteAt_of_written ((h j hj).trans (List.getElem?_eq_getElem hj')), List.getElem?_eq_getElem hj']

/-- A ciphertext as the input, under the key and the configuration it was made with, is recovered as the padded message
(rules R234, R238). -/
theorem recovered_of_ciphertext {w : Width} {s v : State} (hiv : w.blockBytes ≤ s.params.ivValueBytes * s.cfgKlb.toNat)
    (hparams : v.params = s.params) (hrounds : v.cfgRounds = s.cfgRounds) (hkey : v.keyBytes = s.keyBytes)
    (hinput : v.input = s.ciphertext w) : v.recovered w = pad7 w.blockBytes s.input := by
  have hwhole : w.blockBytes ∣ (pad7 w.blockBytes s.input).length :=
    ⟨_, length_pad7 (blockBytes_pos w) s.input⟩
  rw [State.recovered, hparams, hrounds, hkey, hinput, State.ciphertext]
  exact decodeMsg_encodeMsg (length_encBytes w _ _) (fun _ hx => decBytes_encBytes _ _ hx) (blockBytes_pos w)
    (length_deriveIV hiv) hwhole

/-- Settles O59: RC5_DECODE recovers the padded message, and stripping it leaves the message. -/
theorem messageRoundTrip : Obligations.MessageRoundTrip := by
  intro w s u c m hp hw hr hiv hk hkmax hwritten hin herr hu hcopy
  have hbb : 2 * w.bytes ≤ 16 := blockBytes_le_16 w
  obtain ⟨hbuf, -⟩ := hp.bufMax
  have hk0 : s.keylen.toNat ≠ 0 := fun h => hk (BitVec.eq_of_toNat_eq h)
  have hin' : s.inlen.toNat ≤ s.params.bufMax := hin.trans (Nat.sub_le _ _)
  obtain ⟨u', hu', -, houtlen, -, hout, hlen⟩ := encodeWritesTheCiphertext w s hw hr hiv hk hkmax hin' hp
  cases hu.symm.trans hu'
  cases hu.symm.trans (exec_rc5Encode_of_ok (checkEncode_eq_ok.mpr ⟨hw, hr, hiv, hk0, hkmax, hin'⟩))
  let u := ((s.buildTable w).setOutput (s.ciphertext w)).complete
  let v : State := { u.accept c with inmem := m, inlen := u.outlen }
  have hkey : v.keyBytes = s.keyBytes := keyBytes_eq_of_written rfl rfl hwritten
  have hinput : v.input = s.ciphertext w :=
    bytesAt_eq_of_written hlen fun a ha => by
      rw [Nat.zero_add]
      exact (hcopy a ha).trans (hout a)
  have hinlen : v.inlen.toNat = 2 * w.bytes * (s.inlen.toNat / (2 * w.bytes) + 2) := houtlen
  have hmul := Nat.mul_div_le s.inlen.toNat (2 * w.bytes)
  rw [Nat.mul_add] at hinlen
  have hfits : v.inlen.toNat ≤ s.params.bufMax := by omega
  have hblock : 2 * w.bytes ≤ v.inlen.toNat := by omega
  have hmod : v.inlen.toNat % (2 * w.bytes) = 0 := by
    rw [hinlen, ← Nat.mul_add, Nat.mul_mod_right]
  have hcheck : checkDecode v = .ok w := checkDecode_eq_ok.mpr ⟨hw, hr, hk0, hkmax, hfits, hblock, hmod⟩
  have hstrip : stripPadding (v.recovered w) = .ok s.input := by
    rw [recovered_of_ciphertext (v := v) hiv rfl rfl hkey hinput]
    exact stripPadding_pad7 (blockBytes_pos w) (by rw [blockBytes_eq]; omega) s.input
  refine ⟨_, exec_rc5Decode_of_strip_ok hcheck hstrip, herr, rfl, ?outlen, fun a ha => ?bytes⟩
  case outlen =>
    rw [complete_outlen, setOutput_outlen, length_input, BitVec.ofNat_toNat, BitVec.setWidth_eq]
  case bytes =>
    rw [memGet_setOutput, State.input, getElem?_bytesAt s .inmem 0 _ a ha, Nat.zero_add]

end Sys2Proof.Machine
end

section
/-! PROOFS. The padding, the IV and the chain of RC5_ENCODE, and what its output depends on (rules R230, R231, R234,
R237): O54, O55, O56, O60. -/

namespace Sys2Proof.Machine

/-! ### The padded message -/

section Padding

variable (bb : Nat) (p : List Byte)

theorem length_pad7_eq_add : (pad7 bb p).length = p.length + (bb - p.length % bb) := by
  rw [pad7, List.length_append, List.length_replicate]

theorem take_pad7 : (pad7 bb p).take p.length = p := List.take_left

/-- A byte behind the message holds the number of bytes that the padding adds (rule R230). -/
theorem getElem?_pad7_of_le {k : Nat} (hk : p.length ≤ k) (hlt : k < (pad7 bb p).length) :
    (pad7 bb p)[k]? = some (BitVec.ofNat 8 ((pad7 bb p).length - p.length)) := by
  rw [length_pad7_eq_add] at hlt
  rw [length_pad7_eq_add, Nat.add_sub_cancel_left, pad7, List.getElem?_append_right hk,
    List.getElem?_replicate_of_lt (by omega)]

end Padding

/-- Settles O54. -/
theorem messagePaddingShape : Obligations.MessagePaddingShape := by
  intro w p bb q
  have hmod : p.length % bb < bb := Nat.mod_lt _ (blockBytes_pos w)
  have hlen : q.length = p.length + (bb - p.length % bb) := length_pad7_eq_add bb p
  exact ⟨length_pad7 (blockBytes_pos w) p, take_pad7 bb p, by omega, by omega, blockBytes_le_16 w,
    fun _ => getElem?_pad7_of_le bb p⟩

/-! ### The IV -/

/-- More generated values only append to the string of bytes that the IV is cut from (rule R231). -/
theorem exists_ivBytes_eq_append (p : Params) {j k : Nat} (h : j ≤ k) (x : Nat) :
    ∃ rest, ivBytes p k x = ivBytes p j x ++ rest := by
  induction j generalizing k x with
  | zero => exact ⟨_, rfl⟩
  | succ j ih =>
    cases k with
    | zero => cases h
    | succ k =>
      obtain ⟨rest, hrest⟩ := ih (Nat.le_of_succ_le_succ h) (lehNext p.ivA p.ivC p.ivM x)
      exact ⟨rest, by rw [ivBytes, ivBytes, hrest, List.append_assoc]⟩

/-- The IV is the same for every CFG_KLB that rule R232 lets pass. -/
theorem deriveIV_eq_of_le {p : Params} {j k bb : Nat} (hj : bb ≤ p.ivValueBytes * j) (hk : bb ≤ p.ivValueBytes * k) :
    deriveIV p j bb = deriveIV p k bb := by
  wlog h : j ≤ k generalizing j k
  · exact (this hk hj (Nat.le_of_not_le h)).symm
  obtain ⟨rest, hrest⟩ := exists_ivBytes_eq_append p h p.ivX0
  rw [deriveIV, deriveIV, hrest, List.take_append_of_le_length (by rwa [length_ivBytes])]

/-- Settles O55: each width needs 1, 2 or 4 generated values, and its IV is the one that these give. -/
theorem initialisationVectorIsFixed : Obligations.InitialisationVectorIsFixed := by
  intro klb
  refine ⟨fun h => ?w16, fun h => ?w32, fun h => ?w64⟩
  case w16 => exact (deriveIV_eq_of_le (k := 1) h (by decide)).trans (by decide)
  case w32 => exact (deriveIV_eq_of_le (k := 2) h (by decide)).trans (by decide)
  case w64 => exact (deriveIV_eq_of_le (k := 4) h (by decide)).trans (by decide)

/-! ### The blocks of the encoded message -/

theorem getElem?_blocksOf (bb : Nat) {m q : Nat} (hq : q < m) (x : List Byte) :
    (blocksOf bb m x)[q]? = some ((x.drop (q * bb)).take bb) := by
  induction m generalizing q x with
  | zero => cases hq
  | succ m ih =>
    cases q with
    | zero => rw [blocksOf, List.getElem?_cons_zero, Nat.zero_mul, List.drop_zero]
    | succ q =>
      rw [blocksOf, List.getElem?_cons_succ, ih (Nat.lt_of_succ_lt_succ hq), List.drop_drop, Nat.succ_mul, Nat.add_comm]

section Chain

variable {enc : List Byte → List Byte} {bb : Nat}

/-- Behind a leading block, every block is one place later. -/
theorem drop_succ_mul_append {c : List Byte} (hc : c.length = bb) (q : Nat) (x : List Byte) :
    (c ++ x).drop ((q + 1) * bb) = x.drop (q * bb) := by
  rw [Nat.succ_mul, Nat.add_comm, ← List.drop_drop, List.drop_left' hc]

variable (henc : ∀ x, (enc x).length = bb)
include henc

/-- The first block of the chain is fed by what precedes it (rule R234). -/
theorem take_chainEnc {prev x : List Byte} {xs : List (List Byte)} (hx : xs[0]? = some x) :
    (chainEnc enc prev xs).take bb = enc (xorBytes x prev) := by
  cases xs with
  | nil => cases hx
  | cons y ys =>
    cases hx
    exact List.take_left' (henc _)

/-- Every later block of the chain is fed by the block of output before it (rule R234). -/
theorem block_succ_chainEnc {q : Nat} {prev x : List Byte} {xs : List (List Byte)} (hx : xs[q + 1]? = some x) :
    ((chainEnc enc prev xs).drop ((q + 1) * bb)).take bb =
      enc (xorBytes x (((chainEnc enc prev xs).drop (q * bb)).take bb)) := by
  induction q generalizing prev xs with
  | zero =>
    cases xs with
    | nil => cases hx
    | cons y ys =>
      rw [chainEnc, drop_succ_mul_append (henc _), Nat.zero_mul, List.drop_zero, List.drop_zero,
        List.take_left' (henc _)]
      exact take_chainEnc henc hx
  | succ q ih =>
    cases xs with
    | nil => cases hx
    | cons y ys =>
      rw [chainEnc, drop_succ_mul_append (henc _), drop_succ_mul_append (henc _)]
      exact ih hx

/-- The first block of the output is the encoded IV, whatever the message (rules R234, R237). -/
theorem take_encodeMsg (iv pp : List Byte) : (encodeMsg enc bb iv pp).take bb = enc iv :=
  List.take_left' (henc iv)

end Chain

/-- Settles O56: the blocks behind the first are the chain's, one place later. -/
theorem encodeChainsFromTheRawIv : Obligations.EncodeChainsFromTheRawIv := by
  intro enc bb m iv pp hbb henc hiv hpp out
  have hblocks : pp.length / bb = m := by rw [hpp, Nat.mul_div_cancel _ hbb]
  let chain := chainEnc enc iv (blocksOf bb m pp)
  have hout : out = enc iv ++ chain := by simp only [out, chain, encodeMsg, hblocks]
  have hlater (q : Nat) : out.drop ((q + 1) * bb) = chain.drop (q * bb) :=
    hout ▸ drop_succ_mul_append (henc iv) q chain
  refine ⟨?length, take_encodeMsg henc iv pp, fun hm => ?first, fun q hq hqm => ?later⟩
  case length => rw [length_encodeMsg henc, hblocks, Nat.mul_comm]
  case first =>
    have hblock := getElem?_blocksOf bb hm pp
    rw [Nat.zero_mul, List.drop_zero] at hblock
    rw [hout, List.drop_left' (henc iv)]
    exact take_chainEnc henc hblock
  case later =>
    obtain ⟨k, rfl⟩ := Nat.exists_eq_add_one_of_ne_zero hq.ne'
    rw [hlater, hlater]
    exact block_succ_chainEnc henc (getElem?_blocksOf bb hqm pp)

/-! ### What the output depends on -/

section Predictable

variable {w : Width} {s s' : State} (hparams : s.params = s'.params) (hrounds : s.cfgRounds = s'.cfgRounds)
  (hkey : s.keyBytes = s'.keyBytes) (hiv : w.blockBytes ≤ s.params.ivValueBytes * s.cfgKlb.toNat)
  (hiv' : w.blockBytes ≤ s'.params.ivValueBytes * s'.cfgKlb.toNat)
include hparams hrounds hkey hiv hiv'

/-- The first block of the ciphertext is the encoded IV under the table of the key (rule R237). -/
theorem take_ciphertext_eq : (s.ciphertext w).take w.blockBytes = (s'.ciphertext w).take w.blockBytes := by
  rw [State.ciphertext, State.ciphertext, take_encodeMsg (length_encBytes w _ _), take_encodeMsg (length_encBytes w _ _),
    hrounds, hkey, deriveIV_eq_of_le hiv (hparams ▸ hiv'), hparams]

/-- The ciphertext is a function of the configuration, the key and the message (rule R237). -/
theorem ciphertext_eq (hinput : s.input = s'.input) : s.ciphertext w = s'.ciphertext w := by
  rw [State.ciphertext, State.ciphertext, hrounds, hkey, hinput, deriveIV_eq_of_le hiv (hparams ▸ hiv'), hparams]

end Predictable

/-- Settles O60. -/
theorem encodeIsPredictable : Obligations.EncodeIsPredictable := by
  intro w s s' t t' hparams hw hw' hr hrounds hk hkmax hkey hiv hiv' hin hin' ht ht'
  have hlen : s.keylen.toNat = s'.keylen.toNat := by rw [← length_keyBytes, hkey, length_keyBytes]
  have hk0 : s.keylen.toNat ≠ 0 := fun h => hk (BitVec.eq_of_toNat_eq h)
  cases ht.symm.trans (exec_rc5Encode_of_ok (checkEncode_eq_ok.mpr ⟨hw, hr, hiv, hk0, hkmax, hin⟩))
  cases ht'.symm.trans (exec_rc5Encode_of_ok (checkEncode_eq_ok.mpr
    ⟨hw', hrounds ▸ hr, hiv', hlen ▸ hk0, hlen ▸ hparams ▸ hkmax, hin'⟩))
  refine ⟨fun a ha => ⟨?same, ?written⟩, fun hinput => ?all⟩
  case same =>
    have hblock := congrArg (·[a]?) (take_ciphertext_eq hparams hrounds hkey hiv hiv')
    rw [memGet_setOutput, memGet_setOutput]
    simpa only [List.getElem?_take_of_lt (blockBytes_eq w ▸ ha)] using hblock
  case written =>
    rw [memGet_setOutput, Ne, List.getElem?_eq_none_iff, length_ciphertext, Nat.mul_add, blockBytes_eq]
    omega
  case all =>
    rw [complete_outmem, setOutput_outmem, ciphertext_eq hparams hrounds hkey hiv hiv' hinput]
    exact ⟨rfl, rfl⟩

end Sys2Proof.Machine
end

section
/-! PROOFS. The issue of a command, and the two system commands (rules R260 to R265, R274, R283): O5, O6, O31, O32. -/

namespace Sys2Proof.Machine

/-! ### The sequencer's move on an accepted word -/

section Accepted

variable {s : State} (hbusy : s.busy = true)

include hbusy

/-- The rule of a legal word runs (rule R262). -/
theorem coreMove_of_decode_ok {i : Instr} (h : decode s.cmd = .ok i) : coreMove s = exec i s := by
  rw [coreMove, if_pos hbusy, h]

/-- An illegal word raises IllegalCommand(0) (rule R274). -/
theorem coreMove_of_decode_error {e : Illegal} (h : decode s.cmd = .error e) : coreMove s = .next (s.failed 4 0) := by
  rw [coreMove, if_pos hbusy, h]
  rfl

end Accepted

/-- The step after withFetchWord is the sequencer's move on the state in which the word has just been accepted. -/
theorem step_withFetchWord (s : State) (nbits w : Nat) :
    step (s.withFetchWord nbits w) = coreMove (s.accept (commandWord nbits w)) :=
  step_of_schedule_cons (s := s.withFetchWord nbits w) (rest := s.schedule) rfl

/-- Settles O5. -/
theorem stepRunsAcceptedCommand : Obligations.StepRunsAcceptedCommand := by
  intro s i rest nbits w
  refine ⟨fun hbusy hi => ⟨fun hnil => ?alone, fun hcons => ?scheduled⟩, fun hi => ?fetched⟩
  case alone => exact (step_of_schedule_nil hnil).trans (coreMove_of_decode_ok hbusy hi)
  case scheduled =>
    exact (step_of_schedule_cons hcons).trans (coreMove_of_decode_ok (s := { s with schedule := rest }) hbusy hi)
  case fetched =>
    exact (step_withFetchWord s nbits w).trans (coreMove_of_decode_ok (s := s.accept (commandWord nbits w)) rfl hi)

/-! ### A write to CMD -/

section Issue

variable {s : State} {v : BitVec 64}

/-- While ERR = 1 a word other than SYS_CLEAR is discarded; while BUSY = 1 it is turned away (rules R261, R320). -/
theorem hostWrite_cmd_of_err (herr : s.err = true) (hv : v.setWidth 32 ≠ clearWord) : hostWrite s 0x00 v = s := by
  cases hbusy : s.busy with
  | true => exact hostWrite_of_busy hbusy 0x00 v
  | false => simp [hostWrite, issue, hbusy, herr, hv]

/-- While BUSY = 0 every word is accepted while ERR = 0, and SYS_CLEAR in any case (rules R261, R283). -/
theorem hostWrite_cmd_of_accepted (hbusy : s.busy = false) (h : s.err = false ∨ v.setWidth 32 = clearWord) :
    hostWrite s 0x00 v = s.accept (v.setWidth 32) := by
  rcases h with h | h <;> simp [hostWrite, issue, hbusy, h]

end Issue

/-- Settles O6. -/
theorem commandIssueFollowsAcceptance : Obligations.CommandIssueFollowsAcceptance := by
  rintro s v c rfl
  refine ⟨fun hbusy => hostWrite_of_busy hbusy 0x00 v, fun _ => hostWrite_cmd_of_err, fun hbusy h => ?accepted⟩
  have haccept := hostWrite_cmd_of_accepted hbusy h
  rw [haccept]
  refine ⟨rfl, fun hnil => ?_⟩
  have hstep : step (s.accept (v.setWidth 32)) = coreMove (s.accept (v.setWidth 32)) := step_of_schedule_nil hnil
  exact ⟨fun i hi => hstep.trans (coreMove_of_decode_ok rfl hi),
    fun e he => hstep.trans (coreMove_of_decode_error rfl he)⟩

/-! ### SYS_NOP and SYS_CLEAR -/

theorem exec_sysNop (s : State) : exec .sysNop s = .next s.complete := rfl

theorem exec_sysClear (s : State) : exec .sysClear s = .next s.clearError := rfl

/-- Settles O31. -/
theorem nopOnlySetsDone : Obligations.NopOnlySetsDone := by
  intro s
  refine ⟨exec_sysNop s, fun herr => hostWrite_cmd_of_err herr (by decide), fun t ht => ?status⟩
  rw [hostWrite_cmd_of_accepted rfl (.inl rfl), exec_sysNop] at ht
  cases ht
  rfl

/-- SYS_CLEAR leaves KVALID and PVALID in STATUS (rules R24, R265). -/
theorem status_clearError (s : State) : s.clearError.status = statusWord false false false s.kvalid s.pvalid 0 := rfl

/-- Settles O32. -/
theorem clearAcknowledgesTheError : Obligations.ClearAcknowledgesTheError := by
  intro s v
  refine ⟨exec_sysClear s, fun hbusy herr => ⟨?accepted, hostWrite_cmd_of_err herr⟩, fun hstatus t ht => ?status⟩
  case accepted => rw [hostWrite_cmd_of_accepted hbusy (.inr rfl)]; rfl
  case status =>
    rw [exec_sysClear] at ht
    cases ht
    obtain ⟨-, -, -, -, hkvalid, hpvalid, -⟩ := statusReadsItsFields s 0
    rw [hstatus] at hkvalid hpvalid
    calc s.clearError.status = statusWord false false false s.kvalid s.pvalid 0 := status_clearError s
      _ = statusWord false false false true false 0 := by rw [← hkvalid, ← hpvalid]; rfl
      _ = 0x008#64 := by decide

end Sys2Proof.Machine
end

section
/-! PROOFS. Error entry, the errors each command raises, and what a command that fails leaves (rules R270 to R281): O20,
O21, O22. -/

namespace Sys2Proof.Machine

/-! ### Error entry -/

theorem errorEntry_eq_failed (s : State) (e : Err) (info : BitVec 32) : s.errorEntry ⟨e, info⟩ = s.failed e.code info :=
  rfl

/-- Settles O20. -/
theorem errorEntryRecordsTheError : Obligations.ErrorEntryRecordsTheError := by
  intro s info p hp
  have hcode : p.1.code = p.2 := by
    revert p
    decide
  refine ⟨?_, fun rest => ?_⟩
  · rw [errorEntry_eq_failed, hcode]
    rfl
  · rw [error_bind, finish_error]

/-! ### The errors a chain of checks can name -/

/-- Every error that the checks can name has the property. -/
def Raises {α : Type} (P : Trap → Prop) (x : Except Trap α) : Prop := ∀ e, x = .error e → P e

section Raises

variable {α β : Type} {P : Trap → Prop} {s : State}

theorem raises_ok (a : α) : Raises P (.ok a) := nofun

theorem raises_error {e : Trap} (h : P e) : Raises P (.error e : Except Trap α) := by
  rintro _ ⟨⟩
  exact h

theorem Raises.bind {x : Except Trap α} {f : α → Except Trap β} (hx : Raises P x) (hf : ∀ a, Raises P (f a)) :
    Raises P (x >>= f) := by
  intro e he
  rcases bind_eq_error.mp he with he | ⟨a, -, he⟩
  · exact hx e he
  · exact hf a e he

theorem raises_ite {c : Prop} [Decidable c] {e : Trap} {x : Except Trap α} (he : P e) (hx : Raises P x) :
    Raises P (if c then .error e else x) := by
  split
  · exact raises_error he
  · exact hx

theorem raises_checkWidth (h : P ⟨.configuration, 1⟩) : Raises P (checkWidth s) := by
  intro e he
  obtain ⟨-, rfl⟩ := checkWidth_eq_error.mp he
  exact h

theorem raises_checkCipherConfig (h1 : P ⟨.configuration, 1⟩) (h2 : P ⟨.configuration, 2⟩) :
    Raises P (checkCipherConfig s) := by
  have hwidth : Raises P (checkWidth s) := raises_checkWidth h1
  unfold checkCipherConfig
  split
  · rename_i e he
    exact raises_error (hwidth e he)
  · exact raises_ite h2 (raises_ok _)

theorem raises_checkKey (h1 : P ⟨.length, 1⟩) (h2 : P ⟨.length, 2⟩) : Raises P (checkKey s) :=
  raises_ite h1 (raises_ite h2 (raises_ok _))

theorem raises_checkCapacity {sp : Buf} (h : P ⟨.length, lengthCause sp⟩) : Raises P (checkCapacity s sp) :=
  raises_ite h (raises_ok _)

theorem raises_checkBounds {sp : Buf} {a k : Nat} (h : ∀ info, P ⟨.bufferTooShort, info⟩) :
    Raises P (checkBounds s sp a k) :=
  raises_ite (h _) (raises_ok _)

theorem raises_checkTable (h : P ⟨.keyTableInvalid, 0⟩) : Raises P (checkTable s) := by
  unfold checkTable
  split
  · exact raises_ok _
  · exact raises_error h

theorem raises_readWord {w : Width} {r : WReg} (h : ∀ info, P ⟨.widthMismatch, info⟩) : Raises P (readWord w s r) := by
  intro e he
  obtain ⟨-, rfl⟩ := readWord_eq_error.mp he
  exact h _

theorem raises_checkLehmer (h1 : P ⟨.configuration, 3⟩) (h2 : P ⟨.length, 4⟩) (h3 : P ⟨.length, 5⟩) :
    Raises P (checkLehmer s) :=
  raises_ite h1 (raises_ite h2 (raises_ite h3 (raises_ok _)))

theorem raises_checkIv {w : Width} (h : P ⟨.configuration, 4⟩) : Raises P (checkIv w s) :=
  raises_ite h (raises_ok _)

theorem raises_checkCiphertext {bb n : Nat} (h : ∀ info, P ⟨.bufferTooShort, info⟩) : Raises P (checkCiphertext bb n) :=
  raises_ite (h _) (raises_ite (h _) (raises_ok _))

theorem raises_stripPadding {r : List Byte} (h : ∀ info, P ⟨.invalidPadding, info⟩) : Raises P (stripPadding r) := by
  unfold stripPadding
  split
  · exact raises_error (h _)
  · exact raises_ite (h _) (raises_ok _)

theorem raises_wordBinary {f : (w : Width) → Word w → Word w → Word w} {ra rb : WReg} (h1 : P ⟨.configuration, 1⟩)
    (h7 : ∀ info, P ⟨.widthMismatch, info⟩) : Raises P (wordBinary f ra rb s) :=
  .bind (raises_checkWidth h1) fun _ => .bind (raises_readWord h7) fun _ => .bind (raises_readWord h7) fun _ => raises_ok _

theorem raises_wordUnary {f : (w : Width) → Word w → Word w} {ra : WReg} (h1 : P ⟨.configuration, 1⟩)
    (h7 : ∀ info, P ⟨.widthMismatch, info⟩) : Raises P (wordUnary f ra s) :=
  .bind (raises_checkWidth h1) fun _ => .bind (raises_readWord h7) fun _ => raises_ok _

theorem raises_checkExpand (h1 : P ⟨.configuration, 1⟩) (h2 : P ⟨.configuration, 2⟩) (h3 : P ⟨.length, 1⟩)
    (h4 : P ⟨.length, 2⟩) : Raises P (checkExpand s) := by
  have hconfig : Raises P (checkCipherConfig s) := raises_checkCipherConfig h1 h2
  have hkey : Raises P (checkKey s) := raises_checkKey h3 h4
  unfold checkExpand
  split
  · rename_i e he
    exact raises_error (hconfig e he)
  · split
    · rename_i e he
      exact raises_error (hkey e he)
    · exact raises_ok _

end Raises

/-! ### The row of every command in the error matrix -/

/-- The error is one of the command's row of rule R278 that a check names before the first write. -/
structure Allows (i : Instr) (e : Trap) : Prop where
  row : mayRaise i e.err.code e.info = true
  before : e.err ≠ .invalidPadding

theorem Allows.of_row {i : Instr} {e : Err} {info : BitVec 32} (h : mayRaise i e.code info = true)
    (he : e ≠ .invalidPadding := by nofun) : Allows i ⟨e, info⟩ :=
  ⟨h, he⟩

section Checks

variable {s : State}

/-- The two block commands have one row (rules R212, R213). -/
theorem raises_checkBlock {i : Instr} {sp : Buf} {off : BitVec 16} (h : i = .rc5Encblk sp off ∨ i = .rc5Decblk sp off) :
    Raises (Allows i) (checkBlock s sp off.toNat) := by
  rcases h with rfl | rfl <;>
    exact .bind (raises_checkCipherConfig (.of_row rfl) (.of_row rfl)) fun _ =>
      .bind (raises_checkCapacity (.of_row (by cases sp <;> rfl))) fun _ =>
      .bind (raises_checkTable (.of_row rfl)) fun _ =>
      .bind (raises_checkBounds fun _ => .of_row rfl) fun _ => raises_ok _

theorem raises_checkEncode : Raises (Allows .rc5Encode) (checkEncode s) :=
  .bind (raises_checkCipherConfig (.of_row rfl) (.of_row rfl)) fun _ =>
  .bind (raises_checkIv (.of_row rfl)) fun _ =>
  .bind (raises_checkKey (.of_row rfl) (.of_row rfl)) fun _ =>
  .bind (raises_checkCapacity (.of_row rfl)) fun _ => raises_ok _

theorem raises_checkDecode : Raises (Allows .rc5Decode) (checkDecode s) :=
  .bind (raises_checkCipherConfig (.of_row rfl) (.of_row rfl)) fun _ =>
  .bind (raises_checkKey (.of_row rfl) (.of_row rfl)) fun _ =>
  .bind (raises_checkCapacity (.of_row rfl)) fun _ =>
  .bind (raises_checkCiphertext fun _ => .of_row rfl) fun _ => raises_ok _

end Checks

/-! ### How a command fails -/

/-- A command that fails enters the error on the state it started from, or it is RC5_DECODE, which on InvalidPadding
enters it with the table rebuilt and the output empty (rules R238, R281). -/
inductive State.Fails (s : State) (i : Instr) : State → Prop
  | check {e : Trap} (h : Allows i e) : s.Fails i (s.errorEntry e)
  | padding {w : Width} (info : BitVec 32) (hi : i = .rc5Decode) (hw : s.configured w) :
    s.Fails i (((s.buildTable w).setOutput []).errorEntry ⟨.invalidPadding, info⟩)

/-- DONE and ERR exclude each other at the end of a command that started with ERR = 0 (rule R263). -/
theorem State.Ends.done_eq_false {s t : State} (h : s.Ends t) (hs : s.err = false) (ht : t.err = true) :
    t.done = false := by
  cases h with
  | completed hu =>
    have herr : _ = false := hu.err_eq.trans hs
    cases herr.symm.trans ht
  | failed | cleared => rfl

/-- A command that ends with DONE = 0 has failed one of its checks. -/
theorem finish_fails {i : Instr} {r : Except Trap State} {s t : State} (h : finish r s = .next t)
    (hdone : t.done = false) (hr : Raises (Allows i) r) : s.Fails i t := by
  rcases finish_eq_next.mp h with ⟨u, -, rfl⟩ | ⟨e, he, rfl⟩
  · cases hdone
  · exact .check (hr e he)

theorem rc5Decode_fails {s t : State} (h : exec .rc5Decode s = .next t) (hdone : t.done = false) :
    s.Fails .rc5Decode t := by
  cases hcheck : checkDecode s with
  | error e =>
    rw [exec_rc5Decode_of_error hcheck] at h
    cases h
    exact .check (raises_checkDecode e hcheck)
  | ok w =>
    cases hstrip : stripPadding (s.recovered w) with
    | ok out =>
      rw [exec_rc5Decode_of_strip_ok hcheck hstrip] at h
      cases h
      cases hdone
    | error e =>
      rw [exec_rc5Decode_of_strip_error hcheck hstrip] at h
      cases h
      obtain ⟨info, rfl⟩ : ∃ info, e = ⟨.invalidPadding, info⟩ :=
        raises_stripPadding (P := fun e => ∃ info, e = ⟨.invalidPadding, info⟩) (fun info => ⟨info, rfl⟩) e hstrip
      exact .padding info rfl (checkDecode_eq_ok.mp hcheck).1

/-- How every command fails, one row of rule R278 after the other. -/
theorem exec_fails {i : Instr} {s t : State} (hs : s.err = false) (h : exec i s = .next t) (ht : t.err = true) :
    s.Fails i t := by
  have hdone : t.done = false := (exec_ends h).done_eq_false hs ht
  cases i
  case sysNop | md5Init =>
    cases h
    cases hdone
  case sysClear =>
    cases h
    cases ht
  case rc5Decode => exact rc5Decode_fails h hdone
  all_goals refine finish_fails h hdone ?_
  case wAdd | wSub | wXor | wRolv | wRorv => exact raises_wordBinary (.of_row rfl) fun _ => .of_row rfl
  case wAddb | wRol | wRor => exact raises_wordUnary (.of_row rfl) fun _ => .of_row rfl
  case wLd ra sp off =>
    exact .bind (raises_checkWidth (.of_row rfl)) fun _ =>
      .bind (raises_checkCapacity (.of_row (by cases sp <;> rfl))) fun _ =>
      .bind (raises_checkBounds fun _ => .of_row rfl) fun _ => raises_ok _
  case wSt ra sp off =>
    exact .bind (raises_checkWidth (.of_row rfl)) fun _ =>
      .bind (raises_checkCapacity (.of_row (by cases sp <;> rfl))) fun _ =>
      .bind (raises_readWord fun _ => .of_row rfl) fun _ =>
      .bind (raises_checkBounds fun _ => .of_row rfl) fun _ => raises_ok _
  case wMov =>
    exact .bind (raises_checkWidth (.of_row rfl)) fun _ =>
      .bind (raises_readWord fun _ => .of_row rfl) fun _ => raises_ok _
  case lehGen => exact .bind (raises_checkLehmer (.of_row rfl) (.of_row rfl) (.of_row rfl)) fun _ => raises_ok _
  case md5Block sp off =>
    exact .bind (raises_checkCapacity (.of_row (by cases sp <;> rfl))) fun _ =>
      .bind (raises_checkBounds fun _ => .of_row rfl) fun _ => raises_ok _
  case md5Digest | md5Hex => exact .bind (raises_checkCapacity (.of_row rfl)) fun _ => raises_ok _
  case rc5Expand =>
    exact .bind (raises_checkExpand (.of_row rfl) (.of_row rfl) (.of_row rfl) (.of_row rfl)) fun _ => raises_ok _
  case rc5Encblk => exact .bind (raises_checkBlock (.inl rfl)) fun _ => raises_ok _
  case rc5Decblk => exact .bind (raises_checkBlock (.inr rfl)) fun _ => raises_ok _
  case rc5Encode => exact .bind raises_checkEncode fun _ => raises_ok _

/-- Settles O21. -/
theorem failedCommandChangesNothingElse : Obligations.FailedCommandChangesNothingElse := by
  intro i s t hs h ht
  cases exec_fails hs h ht with
  | @check e hrow =>
    refine ⟨fun _ => rfl, fun hcode => ?_⟩
    have hpadding : e.err.code = 2 → e.err = .invalidPadding := by cases e.err <;> decide
    exact absurd (hpadding hcode) hrow.before
  | padding info hi hw => exact ⟨fun hcode => absurd rfl hcode, fun _ => ⟨hi, _, hw, rfl⟩⟩

/-- Settles O22. -/
theorem commandsRaiseOnlyTheirErrors : Obligations.CommandsRaiseOnlyTheirErrors := by
  intro i s t hs h ht
  cases exec_fails hs h ht with
  | check hrow => exact ⟨hrow.row, rfl⟩
  | padding info hi =>
    subst hi
    exact ⟨rfl, rfl⟩

end Sys2Proof.Machine
end

section
/-! PROOFS. A standing error stays through every move but SYS_CLEAR and reset (rules R282, R283): O23. -/

namespace Sys2Proof.Machine

/-- ERR, ERRCODE, ERRINFO and ERRCMD are as they were. -/
structure State.KeepsError (s t : State) : Prop where
  err : t.err = s.err
  errcode : t.errcode = s.errcode
  errinfo : t.errinfo = s.errinfo
  errcmd : t.errcmd = s.errcmd

section Keeps

variable {s t : State}

theorem State.KeepsError.refl (s : State) : s.KeepsError s := ⟨rfl, rfl, rfl, rfl⟩

theorem State.Writes.keepsError (h : s.Writes t) : s.KeepsError t :=
  ⟨h.err_eq, congrArg Flags.errcode h.flags, congrArg Flags.errinfo h.flags, congrArg Flags.errcmd h.flags⟩

/-- A host write leaves the error record, also where it issues a command (rules R261, R283). -/
theorem hostWrite_keepsError (s : State) (n : Nat) (v : BitVec 64) : s.KeepsError (hostWrite s n v) := by
  unfold hostWrite issue
  split
  · exact .refl s
  · split
    · split
      · exact .refl s
      · exact ⟨rfl, rfl, rfl, rfl⟩
    · exact (writes_writeReg s n v).keepsError

/-- Of the moves, the sequencer's and reset alone can change the error record. -/
theorem makeMove_keepsError {m : Move} (hcore : m ≠ .core) (hreset : m ≠ .reset) (h : makeMove m s = .next t) :
    s.KeepsError t := by
  cases m with
  | core => exact absurd rfl hcore
  | reset => exact absurd rfl hreset
  | write n v =>
    cases h
    exact hostWrite_keepsError s n v
  | read n =>
    cases h
    obtain ⟨hostData, draws, seen, heq, -⟩ := hostRead_eq s n
    rw [heq]
    exact ⟨rfl, rfl, rfl, rfl⟩
  | bufWrite sp a b =>
    obtain ⟨-, rfl | ⟨-, rfl⟩⟩ := hostBufWrite_eq_next h
    · exact .refl _
    · exact ⟨setBuf_err .., setBuf_errcode .., setBuf_errinfo .., setBuf_errcmd ..⟩
  | bufRead sp a =>
    obtain ⟨-, hostData, draws, rfl⟩ := hostBufRead_eq_next h
    exact ⟨rfl, rfl, rfl, rfl⟩

/-- While ERR = 1 the sequencer waits or runs an accepted SYS_CLEAR (rules R261, R265). -/
theorem coreMove_of_err (hs : s.flagsLegal) (herr : s.err = true) (h : coreMove s = .next t) :
    t = s ∨ s.busy = true ∧ s.cmd = clearWord ∧ t = s.clearError := by
  obtain ⟨-, -, hclear⟩ := hs
  cases hbusy : s.busy with
  | false =>
    rw [coreMove_of_idle hbusy] at h
    cases h
    exact .inl rfl
  | true =>
    have hcmd : s.cmd = clearWord := hclear hbusy herr
    have hdecode : decode s.cmd = .ok .sysClear := by
      rw [hcmd]
      rfl
    rw [coreMove_of_decode_ok hbusy hdecode, exec_sysClear] at h
    cases h
    exact .inr ⟨rfl, hcmd, rfl⟩

/-- One move from a legal state with ERR = 1. -/
theorem makeMove_of_err {m : Move} (hs : s.flagsLegal) (herr : s.err = true) (hreset : m ≠ .reset)
    (h : makeMove m s = .next t) : s.KeepsError t ∨ s.busy = true ∧ s.cmd = clearWord ∧ t = s.clearError := by
  by_cases hcore : m = .core
  · subst hcore
    rcases coreMove_of_err hs herr h with rfl | hclear
    · exact .inl (.refl _)
    · exact .inr hclear
  · exact .inl (makeMove_keepsError hcore hreset h)

end Keeps

/-- Settles O23: a step is the first move of the schedule, or the sequencer's when none is left. -/
theorem errorStaysUntilClearedOrReset : Obligations.ErrorStaysUntilClearedOrReset := by
  intro s t hs herr h hreset
  obtain ⟨m, rest, hm, hmove⟩ : ∃ m rest, m ≠ .reset ∧ makeMove m { s with schedule := rest } = .next t := by
    cases hsched : s.schedule with
    | nil =>
      rw [step_of_schedule_nil hsched] at h
      refine ⟨.core, [], nofun, ?_⟩
      rw [← hsched]
      exact h
    | cons m rest =>
      rw [step_of_schedule_cons hsched] at h
      exact ⟨m, rest, fun hm => hreset rest (hm ▸ hsched), h⟩
  rcases makeMove_of_err (s := { s with schedule := rest }) hs.flags herr hm hmove with hkeeps | ⟨hbusy, hcmd, rfl⟩
  · exact .inl ⟨hkeeps.err.trans herr, hkeeps.errcode, hkeeps.errinfo, hkeeps.errcmd⟩
  · exact .inr ⟨hbusy, hcmd, rfl, rfl, rfl, rfl, rfl⟩

end Sys2Proof.Machine
end
